-- ==== Sys2Proof/Word.lean ====
section
/-! DEFINITION. The widths the spec names (00_scope.md R6, R8; 10_state.md R21; 30_encoding.md R73, R77). Each is a
bit vector because the spec numbers its bits. -/

namespace Sys2Proof

/-- One byte of the stream: `in_data`, `InByte` (R8, R74). -/
abbrev Byte := BitVec 8

/-- A converted hex character (30_encoding.md R80). -/
abbrev Nibble := BitVec 4

/-- The position register, `POS_WIDTH` = 4 (R6, R21). -/
abbrev Pos := BitVec 4

/-- The identifier, `ID_WIDTH` = `ID_ACC_WIDTH` = 40 (R6, R7). -/
abbrev Ident := BitVec 40

/-- A checksum, `CK_WIDTH` = 8 (R6). -/
abbrev Checksum := BitVec 8

/-- The command word, `CMD_WIDTH` = 10 (R6, R73). -/
abbrev CmdWord := BitVec 10

/-- The arm word `{pos[3:0], InByte[7:0]}` (R77). -/
abbrev ArmWord := BitVec 12

end Sys2Proof
end

