-- ==== Sys2Proof/Config.lean ====
section
/-! DEFINITION. The block's fixed parameters (00_scope.md R6: "None is configurable at run time"). There is no free
value: the spec leaves no value of the running block open (93_implementation_defined.md). -/

namespace Sys2Proof.Config

/-- `START_MARKER` (R6). -/
def startMarker : Byte := 0x02#8

/-- `END_MARKER` (R6). -/
def endMarker : Byte := 0x03#8

/-- `FRAME_LEN` (R6, 30_encoding.md R70). -/
def frameLen : Nat := 14

/-- `ID_NIBBLES` (R6). -/
def idNibbles : Nat := 10

/-- The ASCII code of '0', PRESUMED by the spec itself (R10, G1), log 8, unsafe. -/
def asciiZero : Byte := 0x30#8

/-- The ASCII code of 'A' (R10, G1), PRESUMED, log 8, unsafe. -/
def asciiUpperA : Byte := 0x41#8

/-- The ASCII code of 'a' (R10, G1), PRESUMED, log 8, unsafe. -/
def asciiLowerA : Byte := 0x61#8

end Sys2Proof.Config
end

