-- ==== Sys2Proof/Syntax.lean ====
section
/-! DEFINITION. Syntax: one constructor for each row of spec/opcode_table.json: the four commands of 30_encoding.md R74 and
the sixteen FEED arms of R77. -/

namespace Sys2Proof

/-- The two positions of the RECOVER row, `pos` = 14 or 15 (30_encoding.md R77 row 7, R78). -/
inductive UnusedPos where
  | p14
  | p15
  deriving DecidableEq, Repr

/-- The instructions.

A command's `d` is the field D where the command ignores it (R76; DESIGN CHOICE, log 18: kept so that no bit of a word is
dropped), and `b` is `InByte`. An arm row stands for the FEED step that takes that arm, its arm word being
`{pos, InByte}` (R77; DESIGN CHOICE, log 4). -/
inductive Instr where
  /-- NOP, word 00 D (R74, R134). -/
  | nop (d : Byte)
  /-- FEED b, word 01 b (R74, R100). -/
  | feed (b : Byte)
  /-- TAKE, word 10 D (R74, R130). -/
  | take (d : Byte)
  /-- TAKE_FEED b, word 11 b (R74, R133). -/
  | takeFeed (b : Byte)
  /-- IDLE_START, arm word 0x002 (R102). -/
  | feedIdleStart
  /-- IDLE_SKIP, arm word 0x0 b with b no start marker (R103). -/
  | feedIdleSkip (b : Byte)
  /-- NIB(1), arm word 0x1 b (R104). -/
  | feedNib1 (b : Byte)
  /-- NIB(2), arm word 0x2 b (R104). -/
  | feedNib2 (b : Byte)
  /-- NIB(3), arm word 0x3 b (R104). -/
  | feedNib3 (b : Byte)
  /-- NIB(4), arm word 0x4 b (R104). -/
  | feedNib4 (b : Byte)
  /-- NIB(5), arm word 0x5 b (R104). -/
  | feedNib5 (b : Byte)
  /-- NIB(6), arm word 0x6 b (R104). -/
  | feedNib6 (b : Byte)
  /-- NIB(7), arm word 0x7 b (R104). -/
  | feedNib7 (b : Byte)
  /-- NIB(8), arm word 0x8 b (R104). -/
  | feedNib8 (b : Byte)
  /-- NIB(9), arm word 0x9 b (R104). -/
  | feedNib9 (b : Byte)
  /-- NIB(10), arm word 0xA b (R104). -/
  | feedNib10 (b : Byte)
  /-- CK_HI, arm word 0xB b (R105). -/
  | feedCkHi (b : Byte)
  /-- CK_LO, arm word 0xC b (R106). -/
  | feedCkLo (b : Byte)
  /-- END, arm word 0xD b (R107). -/
  | feedEnd (b : Byte)
  /-- RECOVER, arm word 0xE b or 0xF b (R108). -/
  | feedRecover (p : UnusedPos) (b : Byte)
  deriving DecidableEq, Repr

/-- The arms of FEED (30_encoding.md R77), NIB(p) written out for p = 1 to 10. -/
inductive Arm where
  | idleStart
  | idleSkip
  | nib1
  | nib2
  | nib3
  | nib4
  | nib5
  | nib6
  | nib7
  | nib8
  | nib9
  | nib10
  | ckHi
  | ckLo
  | endMark
  | recover
  deriving DecidableEq, Repr

/-- The two word formats of the opcode table. -/
inductive Format where
  /-- CMD10, the command word (R73). -/
  | cmd10
  /-- ARM12, the arm word (R77). -/
  | arm12
  deriving DecidableEq, Repr

/-- A word of one of the two formats. -/
inductive InstrWord where
  | cmd (w : CmdWord)
  | arm (w : ArmWord)
  deriving DecidableEq, Repr

end Sys2Proof
end

