-- ==== Sys2Proof/WellFormed.lean ====
section
/-! DEFINITION. Which terms of `Instr` some word of the spec stands for. -/

namespace Sys2Proof

/-- Every term has a word but one: IDLE_SKIP is "any other byte at position 0" (40_feed.md R103: `b != 0x02`), since the
row before it takes the start marker (30_encoding.md R77). Every byte is legal in every other row (R76, R77). -/
def Instr.wf : Instr → Bool
  | .nop _ => true
  | .feed _ => true
  | .take _ => true
  | .takeFeed _ => true
  | .feedIdleStart => true
  | .feedIdleSkip b => b != Config.startMarker
  | .feedNib1 _ => true
  | .feedNib2 _ => true
  | .feedNib3 _ => true
  | .feedNib4 _ => true
  | .feedNib5 _ => true
  | .feedNib6 _ => true
  | .feedNib7 _ => true
  | .feedNib8 _ => true
  | .feedNib9 _ => true
  | .feedNib10 _ => true
  | .feedCkHi _ => true
  | .feedCkLo _ => true
  | .feedEnd _ => true
  | .feedRecover _ _ => true

end Sys2Proof
end

