-- ==== Sys2Proof/Decode.lean ====
section
/-! DEFINITION. From words to instructions and back: the command decode (30_encoding.md R74), the arm decode (R77), the
decoder of any number as a word of a format, the encoder, and the opcode table's rows as data. -/

namespace Sys2Proof

/-- The command decode (R74): `cmd[9:8]` selects the command and `cmd[7:0]` is D. "every one of the 1024 words decodes". -/
def decodeCommand (w : CmdWord) : Instr :=
  match w.getLsbD 9, w.getLsbD 8 with
  | false, false => .nop (w.extractLsb' 0 8)
  | false, true => .feed (w.extractLsb' 0 8)
  | true, false => .take (w.extractLsb' 0 8)
  | true, true => .takeFeed (w.extractLsb' 0 8)

/-- The arm decode of FEED (R77): the first matching row gives the arm. -/
def selectArm (p : Pos) (b : Byte) : Arm :=
  match p.toNat with
  | 0 => if b = Config.startMarker then .idleStart else .idleSkip
  | 1 => .nib1
  | 2 => .nib2
  | 3 => .nib3
  | 4 => .nib4
  | 5 => .nib5
  | 6 => .nib6
  | 7 => .nib7
  | 8 => .nib8
  | 9 => .nib9
  | 10 => .nib10
  | 11 => .ckHi
  | 12 => .ckLo
  | 13 => .endMark
  | _ => .recover

/-- Which of the RECOVER row's two positions `p` is (R77 row 7: 14 or 15). -/
def unusedPos (p : Pos) : UnusedPos :=
  if p.getLsbD 0 then .p15 else .p14

/-- The value of `pos` that a RECOVER instruction names. -/
def UnusedPos.pos : UnusedPos → Pos
  | .p14 => 14#4
  | .p15 => 15#4

/-- The instruction of an arm at position `p` with byte `b`. -/
def Arm.instr (a : Arm) (p : Pos) (b : Byte) : Instr :=
  match a with
  | .idleStart => .feedIdleStart
  | .idleSkip => .feedIdleSkip b
  | .nib1 => .feedNib1 b
  | .nib2 => .feedNib2 b
  | .nib3 => .feedNib3 b
  | .nib4 => .feedNib4 b
  | .nib5 => .feedNib5 b
  | .nib6 => .feedNib6 b
  | .nib7 => .feedNib7 b
  | .nib8 => .feedNib8 b
  | .nib9 => .feedNib9 b
  | .nib10 => .feedNib10 b
  | .ckHi => .feedCkHi b
  | .ckLo => .feedCkLo b
  | .endMark => .feedEnd b
  | .recover => .feedRecover (unusedPos p) b

/-- The arm instruction that FEED `b` takes at position `p` (R77). -/
def armInstr (p : Pos) (b : Byte) : Instr :=
  (selectArm p b).instr p b

/-- The arm word `{pos[3:0], InByte[7:0]}` decoded (R77). Every one of the 4096 words decodes. -/
def decodeArmWord (w : ArmWord) : Instr :=
  armInstr (w.extractLsb' 8 4) (w.extractLsb' 0 8)

/-- The decoder of a word of either format. -/
def decodeWord : InstrWord → Instr
  | .cmd w => decodeCommand w
  | .arm w => decodeArmWord w

/-- Why a number is no word of a format. -/
inductive DecodeReject where
  /-- A command is one 10-bit word (R73). -/
  | commandWiderThan10Bits
  /-- An arm word is `{pos[3:0], InByte[7:0]}`, 12 bits (R77). -/
  | armWordWiderThan12Bits
  deriving DecidableEq, Repr

/-- The decoder on any number, rejecting by name one that has a bit its format does not have. -/
def decode (f : Format) (w : Nat) : Except DecodeReject Instr :=
  match f with
  | .cmd10 => if w < 2 ^ 10 then .ok (decodeCommand (BitVec.ofNat 10 w)) else .error .commandWiderThan10Bits
  | .arm12 => if w < 2 ^ 12 then .ok (decodeArmWord (BitVec.ofNat 12 w)) else .error .armWordWiderThan12Bits

/-- The command word `{T, V, D}` (R73). -/
def commandWord (t v : Bool) (d : Byte) : CmdWord :=
  BitVec.ofBool t ++ (BitVec.ofBool v ++ d)

/-- The arm word `{pos, InByte}` (R77). -/
def armWord (p : Pos) (b : Byte) : ArmWord :=
  p ++ b

/-- The encoder, from the tables of R74 and R77. -/
def encode : Instr → InstrWord
  | .nop d => .cmd (commandWord false false d)
  | .feed b => .cmd (commandWord false true b)
  | .take d => .cmd (commandWord true false d)
  | .takeFeed b => .cmd (commandWord true true b)
  | .feedIdleStart => .arm (armWord 0#4 Config.startMarker)
  | .feedIdleSkip b => .arm (armWord 0#4 b)
  | .feedNib1 b => .arm (armWord 1#4 b)
  | .feedNib2 b => .arm (armWord 2#4 b)
  | .feedNib3 b => .arm (armWord 3#4 b)
  | .feedNib4 b => .arm (armWord 4#4 b)
  | .feedNib5 b => .arm (armWord 5#4 b)
  | .feedNib6 b => .arm (armWord 6#4 b)
  | .feedNib7 b => .arm (armWord 7#4 b)
  | .feedNib8 b => .arm (armWord 8#4 b)
  | .feedNib9 b => .arm (armWord 9#4 b)
  | .feedNib10 b => .arm (armWord 10#4 b)
  | .feedCkHi b => .arm (armWord 11#4 b)
  | .feedCkLo b => .arm (armWord 12#4 b)
  | .feedEnd b => .arm (armWord 13#4 b)
  | .feedRecover p b => .arm (armWord p.pos b)

/-- The width of a format in bits (R73, R77). -/
def Format.width : Format → Nat
  | .cmd10 => 10
  | .arm12 => 12

/-- The format of a word. -/
def InstrWord.format : InstrWord → Format
  | .cmd _ => .cmd10
  | .arm _ => .arm12

/-- The number a word is, bit 0 its least significant bit (00_scope.md R8). -/
def InstrWord.toNat : InstrWord → Nat
  | .cmd w => w.toNat
  | .arm w => w.toNat

/-- A row of the opcode table: its format, and the mask and match that a word of the row meets. -/
structure OpcodeRow where
  format : Format
  mask : Nat
  pattern : Nat
  deriving DecidableEq, Repr

/-- A word of the row's format that agrees with the pattern on the mask's bits. -/
def OpcodeRow.matches (r : OpcodeRow) (w : InstrWord) : Bool :=
  r.format == w.format && (w.toNat &&& r.mask) == r.pattern

/-- The mask and match of each instruction's row in opcode_table.json. -/
def Instr.row : Instr → OpcodeRow
  | .nop _ => ⟨.cmd10, 0x300, 0x000⟩
  | .feed _ => ⟨.cmd10, 0x300, 0x100⟩
  | .take _ => ⟨.cmd10, 0x300, 0x200⟩
  | .takeFeed _ => ⟨.cmd10, 0x300, 0x300⟩
  | .feedIdleStart => ⟨.arm12, 0xFFF, 0x002⟩
  | .feedIdleSkip _ => ⟨.arm12, 0xF00, 0x000⟩
  | .feedNib1 _ => ⟨.arm12, 0xF00, 0x100⟩
  | .feedNib2 _ => ⟨.arm12, 0xF00, 0x200⟩
  | .feedNib3 _ => ⟨.arm12, 0xF00, 0x300⟩
  | .feedNib4 _ => ⟨.arm12, 0xF00, 0x400⟩
  | .feedNib5 _ => ⟨.arm12, 0xF00, 0x500⟩
  | .feedNib6 _ => ⟨.arm12, 0xF00, 0x600⟩
  | .feedNib7 _ => ⟨.arm12, 0xF00, 0x700⟩
  | .feedNib8 _ => ⟨.arm12, 0xF00, 0x800⟩
  | .feedNib9 _ => ⟨.arm12, 0xF00, 0x900⟩
  | .feedNib10 _ => ⟨.arm12, 0xF00, 0xA00⟩
  | .feedCkHi _ => ⟨.arm12, 0xF00, 0xB00⟩
  | .feedCkLo _ => ⟨.arm12, 0xF00, 0xC00⟩
  | .feedEnd _ => ⟨.arm12, 0xF00, 0xD00⟩
  | .feedRecover _ _ => ⟨.arm12, 0xE00, 0xE00⟩

/-- R77's table with its mask and match: the rows in order, each with its arm. -/
def armTable : List (OpcodeRow × Arm) :=
  [ (⟨.arm12, 0xFFF, 0x002⟩, .idleStart),
    (⟨.arm12, 0xF00, 0x000⟩, .idleSkip),
    (⟨.arm12, 0xF00, 0x100⟩, .nib1),
    (⟨.arm12, 0xF00, 0x200⟩, .nib2),
    (⟨.arm12, 0xF00, 0x300⟩, .nib3),
    (⟨.arm12, 0xF00, 0x400⟩, .nib4),
    (⟨.arm12, 0xF00, 0x500⟩, .nib5),
    (⟨.arm12, 0xF00, 0x600⟩, .nib6),
    (⟨.arm12, 0xF00, 0x700⟩, .nib7),
    (⟨.arm12, 0xF00, 0x800⟩, .nib8),
    (⟨.arm12, 0xF00, 0x900⟩, .nib9),
    (⟨.arm12, 0xF00, 0xA00⟩, .nib10),
    (⟨.arm12, 0xF00, 0xB00⟩, .ckHi),
    (⟨.arm12, 0xF00, 0xC00⟩, .ckLo),
    (⟨.arm12, 0xF00, 0xD00⟩, .endMark),
    (⟨.arm12, 0xE00, 0xE00⟩, .recover) ]

/-- The first row of `armTable` that the arm word `{p, b}` matches (R77: "The first matching row, in this order, gives
the arm"). `selectArm` is the model's decoder; that the two agree is a statement. -/
def firstMatchingArm (p : Pos) (b : Byte) : Option Arm :=
  (armTable.find? (fun r => r.1.matches (.arm (armWord p b)))).map (·.2)

/-- Which format the host's number `w` of `nbits` bits is a word of (DESIGN CHOICE, log 5, safe: the hardware never
meets these numbers). The two formats share numbers below 1024; such a number, in a width that tells nothing (16 bits, the
whole bytes of either format), is a command word, which is what the block is given. -/
def tableWordIsArm (nbits w : Nat) : Bool :=
  nbits == 12 || decide (16 < nbits) || (decide (10 < nbits) && decide (2 ^ 10 ≤ w))

/-- The host's number as a word. Bits 12 and up of an arm word do not exist: the table's reader gave some rows field
bits there that the spec does not have (98_reader.md), and they are dropped (DESIGN CHOICE, log 5, safe). -/
def tableWord (nbits w : Nat) : Option InstrWord :=
  if tableWordIsArm nbits w then some (.arm (BitVec.ofNat 12 w))
  else if w < 2 ^ 10 then some (.cmd (BitVec.ofNat 10 w))
  else none

/-- The instruction the decoder reads from the host's number (log 5). -/
def decodeTableWord (nbits w : Nat) : Option Instr :=
  (tableWord nbits w).map decodeWord

end Sys2Proof
end

