-- ==== Sys2Proof/Machine/State.lean ====
section
/-! DEFINITION. The state of one block (10_state.md R21), its input ports (R30), the responses it has given (R189), the
state after reset (R35), and the reasons a step can stop. -/

namespace Sys2Proof.Machine

/-- What the outside drives on the input ports at one rising edge of `clk` (10_state.md R30). -/
structure EdgeInput where
  /-- Synchronous reset, active high. -/
  rst : Bool
  /-- Command bit 9. -/
  take : Bool
  /-- Command bit 8. -/
  inValid : Bool
  /-- Command bits 7:0. -/
  inData : Byte
  deriving DecidableEq, Repr

/-- A response of a step (00_scope.md R9, 70_reset_and_hazards.md R189): `return_take(o)` or `return_feed(f)`. -/
inductive Response where
  | take (o : Option Ident)
  | feed (f : Bool)
  deriving DecidableEq, Repr

/-- The state. The first five fields are the block's whole mutable state (R20, R21). -/
structure State where
  /-- `pos`, the sequencer (R22). -/
  pos : Pos
  /-- `id_acc`, the identifier accumulator (R24). -/
  idAcc : Ident
  /-- `ck_rx`, the checksum accumulator (R25). -/
  ckRx : Checksum
  /-- `flag`, the validity flag (R26). -/
  flag : Bool
  /-- `frame_ok`, the result of the last step's FEED (R27). -/
  frameOk : Bool
  /-- The inputs of the coming edges, the next first (R30, R31; the model's own field, DESIGN CHOICE, log 1). -/
  pending : List EdgeInput
  /-- The responses given so far, the oldest first (R189; the model's own field, DESIGN CHOICE, log 3). -/
  responses : List Response
  deriving DecidableEq, Repr

/-- Faults: none. "The block raises no exception, trap or error indication of any kind, and no command can fault"
(60_exceptions.md R150), so the type has no constructor. -/
inductive Fault where
  deriving DecidableEq, Repr

/-- Refusals. -/
inductive Refusal where
  /-- Raised by an arm of `exec` whose instruction has no meaning yet; no arm is such. Safe. -/
  | notModelled (mnemonic : String)
  /-- Raised by the meaning of an arm row of FEED in a state whose `{pos, InByte}` selects another row (30_encoding.md R77);
  such a step does not exist. No `step` raises it: a step runs a command. DESIGN CHOICE, log 4. Safe. -/
  | armNotSelected
  deriving DecidableEq, Repr

/-- The state right after reset (10_state.md R35), nothing driven and nothing answered yet (logs 1, 3). -/
def State.reset : State where
  pos := 0#4
  idAcc := 0#40
  ckRx := 0x00#8
  flag := false
  frameOk := false
  pending := []
  responses := []

end Sys2Proof.Machine
end

