-- ==== Sys2Proof/Machine/Operands.lean ====
section
/-! DEFINITION. Operand computation: the hex conversion (30_encoding.md R80), nibble placement (R83), the received checksum's
two halves (R85), and the command word an edge presents (10_state.md R31). -/

namespace Sys2Proof.Machine

/-- `HexNib` (R80): 8-bit unsigned modular arithmetic, the low four bits kept (the spec's decision D4; DESIGN CHOICE, log 9, unsafe for other implementations only). It is
applied to every byte, with no check that it is a hex character (R79; DESIGN CHOICE, log 10, unsafe for other implementations only). -/
def hexNib (b : Byte) : Nibble :=
  let t := b - Config.asciiZero
  let u := if t > 9#8 then t - 7#8 else t
  u.extractLsb' 0 4

/-- `shift(p) = (10 - p) * 4` (R83). -/
def nibShift (p : Nat) : Nat :=
  (10 - p) * 4

/-- `contribution(p, b)` (R83): the nibble of the byte at offset `p` in its place. -/
def contribution (p : Nat) (b : Byte) : Ident :=
  (hexNib b).setWidth 40 <<< nibShift p

/-- CK_HI's value `{HexNib(b), 0b0000}` (40_feed.md R105). -/
def checksumHigh (b : Byte) : Checksum :=
  hexNib b ++ 0#4

/-- CK_LO's value `zext_8(HexNib(b))` (40_feed.md R106). -/
def checksumLow (b : Byte) : Checksum :=
  (hexNib b).setWidth 8

/-- `cmd = {take, in_valid, in_data}` (10_state.md R31). -/
def EdgeInput.cmd (e : EdgeInput) : CmdWord :=
  commandWord e.take e.inValid e.inData

/-- An edge at which nothing is driven: `take = 0`, `in_valid = 0`, `rst = 0` (R31: a NOP). -/
def EdgeInput.idle : EdgeInput where
  rst := false
  take := false
  inValid := false
  inData := 0#8

/-- The edge that presents a command word and no reset (R31). -/
def EdgeInput.ofCmd (w : CmdWord) : EdgeInput where
  rst := false
  take := w.getLsbD 9
  inValid := w.getLsbD 8
  inData := w.extractLsb' 0 8

end Sys2Proof.Machine
end

