-- ==== Sys2Proof/Machine/Flags.lean ====
section
/-! DEFINITION. What decides the validity flag: the computed checksum (30_encoding.md R84) and the validation gate
(40_feed.md R107). -/

namespace Sys2Proof.Machine

/-- Byte i of the identifier, `id_acc[8i+7:8i]`, "byte 0 = least significant" (20_memory.md R54). -/
def idByte (v : Ident) (i : Nat) : Byte :=
  v.extractLsb' (8 * i) 8

/-- `Xor5` (R84). -/
def xor5 (v : Ident) : Checksum :=
  idByte v 4 ^^^ idByte v 3 ^^^ idByte v 2 ^^^ idByte v 1 ^^^ idByte v 0

/-- The validation gate of END (R107): `b == 0x03 and ck_rx == Xor5(id_acc)`. -/
def frameAccepted (b : Byte) (ck : Checksum) (v : Ident) : Bool :=
  b == Config.endMarker && ck == xor5 v

end Sys2Proof.Machine
end

