-- ==== Sys2Proof/Machine/Ops.lean ====
section
/-! DEFINITION. The named operations: the register writes, the responses, the arms of FEED, FEED and TAKE as changes of the
state, reset, and taking the next edge from the input list. Taking an exception and returning from one have no operation:
the block has neither (60_exceptions.md R150, R156). -/

namespace Sys2Proof.Machine

/-- `pos <- p`. -/
def State.setPos (s : State) (p : Pos) : State := { s with pos := p }

/-- `id_acc <- v`. -/
def State.setIdAcc (s : State) (v : Ident) : State := { s with idAcc := v }

/-- `ck_rx <- c`. -/
def State.setCkRx (s : State) (c : Checksum) : State := { s with ckRx := c }

/-- `flag <- f`. -/
def State.setFlag (s : State) (f : Bool) : State := { s with flag := f }

/-- `frame_ok <- f`. -/
def State.setFrameOk (s : State) (f : Bool) : State := { s with frameOk := f }

/-- The inputs still to come. -/
def State.setPending (s : State) (l : List EdgeInput) : State := { s with pending := l }

/-- `return_take(o)`, `return_feed(f)` (00_scope.md R9): the response joins the run's observation (R189). -/
def State.respond (s : State) (r : Response) : State := { s with responses := s.responses ++ [r] }

/-- IDLE_START (40_feed.md R102). -/
def armIdleStart (s : State) : State :=
  ((s.setIdAcc 0#40).setCkRx 0x00#8).setPos 1#4

/-- IDLE_SKIP (R103): no write besides the flag clear of R101. -/
def armIdleSkip (s : State) : State := s

/-- NIB(p) (R104), the OR and the advance. -/
def armNib (p : Nat) (b : Byte) (s : State) : State :=
  (s.setIdAcc (s.idAcc ||| contribution p b)).setPos (BitVec.ofNat 4 (p + 1))

/-- CK_HI (R105): the write replaces `ck_rx`. -/
def armCkHi (b : Byte) (s : State) : State :=
  (s.setCkRx (checksumHigh b)).setPos 12#4

/-- CK_LO (R106): an OR. -/
def armCkLo (b : Byte) (s : State) : State :=
  (s.setCkRx (s.ckRx ||| checksumLow b)).setPos 13#4

/-- END (R107): the gate sets `flag`; `pos <- 0` in every case. A frame the gate does not accept is dropped: only `pos` is
written (60_exceptions.md R155). -/
def armEnd (b : Byte) (s : State) : State :=
  (if frameAccepted b s.ckRx s.idAcc then s.setFlag true else s).setPos 0#4

/-- RECOVER (R108). -/
def armRecover (s : State) : State :=
  s.setPos 0#4

/-- The arm's pseudocode (R100's case). -/
def armEffect (a : Arm) (b : Byte) (s : State) : State :=
  match a with
  | .idleStart => armIdleStart s
  | .idleSkip => armIdleSkip s
  | .nib1 => armNib 1 b s
  | .nib2 => armNib 2 b s
  | .nib3 => armNib 3 b s
  | .nib4 => armNib 4 b s
  | .nib5 => armNib 5 b s
  | .nib6 => armNib 6 b s
  | .nib7 => armNib 7 b s
  | .nib8 => armNib 8 b s
  | .nib9 => armNib 9 b s
  | .nib10 => armNib 10 b s
  | .ckHi => armCkHi b s
  | .ckLo => armCkLo b s
  | .endMark => armEnd b s
  | .recover => armRecover s

/-- `return_feed(flag)` and `frame_ok <- flag` (R100, R109; 10_state.md R27). -/
def finishFeed (s : State) : State :=
  (s.respond (.feed s.flag)).setFrameOk s.flag

/-- FEED with its arm given: the flag clear (R101), the arm, the result. -/
def feedWithArm (a : Arm) (b : Byte) (s : State) : State :=
  finishFeed (armEffect a b (s.setFlag false))

/-- FEED (R100): the arm is chosen from `pos` and the byte (30_encoding.md R77). -/
def feedStep (b : Byte) (s : State) : State :=
  feedWithArm (selectArm s.pos b) b s

/-- The FEED step that takes the row `a` at position `p`, in a state whose arm word selects that row; no such step exists
in any other state (R77; log 4). -/
def feedByRow (p : Pos) (a : Arm) (b : Byte) (s : State) : Host.Outcome State Fault Refusal :=
  if s.pos = p ∧ selectArm s.pos b = a then .next (feedWithArm a b s) else .refused .armNotSelected

/-- A TAKE's response (41_take.md R130, R131): `Some(id_acc)` when `flag` is 1, else `None`. -/
def State.takeResponse (s : State) : Option Ident :=
  if s.flag then some s.idAcc else none

/-- TAKE (R130). -/
def takeStep (s : State) : State :=
  ((s.respond (.take s.takeResponse)).setFlag false).setFrameOk false

/-- NOP (R134). -/
def nopStep (s : State) : State :=
  s.setFrameOk false

/-- The reset of 70_reset_and_hazards.md R180: every register at its value of 10_state.md R35, and no response. The
observation so far is kept (DESIGN CHOICE, log 3, safe). -/
def resetStep (s : State) : State :=
  ((((s.setPos 0#4).setIdAcc 0#40).setCkRx 0x00#8).setFlag false).setFrameOk false

/-- What the coming edge sees: the head of the list; nothing driven where the list is empty (DESIGN CHOICE, log 2,
unsafe). -/
def State.nextEdge (s : State) : EdgeInput :=
  s.pending.headD .idle

/-- The state the coming edge acts on: its inputs taken from the list. -/
def State.takeEdge (s : State) : State :=
  s.setPending s.pending.tail

/-- `s` with `e` driven at the coming edge, the rest after it. -/
def State.drive (s : State) (e : EdgeInput) : State :=
  s.setPending (e :: s.pending)

/-- `s` with the host's word presented at the coming edge (DESIGN CHOICE, log 6, safe). An arm word `{pos, InByte}` is a FEED of `InByte` in a
block whose `pos` is the word's (30_encoding.md R77), so `pos` is set too. -/
def State.presentWord (s : State) (w : Option InstrWord) : State :=
  match w with
  | some (.cmd c) => s.drive (.ofCmd c)
  | some (.arm a) => (s.setPos (a.extractLsb' 8 4)).drive (.ofCmd (commandWord false true (a.extractLsb' 0 8)))
  | none => s

end Sys2Proof.Machine
end

