-- ==== Sys2Proof/Machine/Arms.lean ====
section
/-! DEFINITION. The meanings of the sixteen arm rows: each is the whole FEED step (40_feed.md R100) that takes that arm. -/

namespace Sys2Proof.Machine

/-- IDLE_START (40_feed.md R102): FEED 0x02 at position 0. -/
def execFeedIdleStart (s : State) : Host.Outcome State Fault Refusal :=
  feedByRow 0#4 .idleStart Config.startMarker s

/-- IDLE_SKIP (40_feed.md R103): FEED of any other byte at position 0. -/
def execFeedIdleSkip (b : Byte) (s : State) : Host.Outcome State Fault Refusal :=
  feedByRow 0#4 .idleSkip b s

/-- NIB(1) (40_feed.md R104): FEED of any byte at position 1. -/
def execFeedNib1 (b : Byte) (s : State) : Host.Outcome State Fault Refusal :=
  feedByRow 1#4 .nib1 b s

/-- NIB(2) (40_feed.md R104): FEED of any byte at position 2. -/
def execFeedNib2 (b : Byte) (s : State) : Host.Outcome State Fault Refusal :=
  feedByRow 2#4 .nib2 b s

/-- NIB(3) (40_feed.md R104): FEED of any byte at position 3. -/
def execFeedNib3 (b : Byte) (s : State) : Host.Outcome State Fault Refusal :=
  feedByRow 3#4 .nib3 b s

/-- NIB(4) (40_feed.md R104): FEED of any byte at position 4. -/
def execFeedNib4 (b : Byte) (s : State) : Host.Outcome State Fault Refusal :=
  feedByRow 4#4 .nib4 b s

/-- NIB(5) (40_feed.md R104): FEED of any byte at position 5. -/
def execFeedNib5 (b : Byte) (s : State) : Host.Outcome State Fault Refusal :=
  feedByRow 5#4 .nib5 b s

/-- NIB(6) (40_feed.md R104): FEED of any byte at position 6. -/
def execFeedNib6 (b : Byte) (s : State) : Host.Outcome State Fault Refusal :=
  feedByRow 6#4 .nib6 b s

/-- NIB(7) (40_feed.md R104): FEED of any byte at position 7. -/
def execFeedNib7 (b : Byte) (s : State) : Host.Outcome State Fault Refusal :=
  feedByRow 7#4 .nib7 b s

/-- NIB(8) (40_feed.md R104): FEED of any byte at position 8. -/
def execFeedNib8 (b : Byte) (s : State) : Host.Outcome State Fault Refusal :=
  feedByRow 8#4 .nib8 b s

/-- NIB(9) (40_feed.md R104): FEED of any byte at position 9. -/
def execFeedNib9 (b : Byte) (s : State) : Host.Outcome State Fault Refusal :=
  feedByRow 9#4 .nib9 b s

/-- NIB(10) (40_feed.md R104): FEED of any byte at position 10. -/
def execFeedNib10 (b : Byte) (s : State) : Host.Outcome State Fault Refusal :=
  feedByRow 10#4 .nib10 b s

/-- CK_HI (40_feed.md R105): FEED of any byte at position 11. -/
def execFeedCkHi (b : Byte) (s : State) : Host.Outcome State Fault Refusal :=
  feedByRow 11#4 .ckHi b s

/-- CK_LO (40_feed.md R106): FEED of any byte at position 12. -/
def execFeedCkLo (b : Byte) (s : State) : Host.Outcome State Fault Refusal :=
  feedByRow 12#4 .ckLo b s

/-- END (40_feed.md R107): FEED of any byte at position 13. -/
def execFeedEnd (b : Byte) (s : State) : Host.Outcome State Fault Refusal :=
  feedByRow 13#4 .endMark b s

/-- RECOVER (40_feed.md R108): FEED of any byte at position 14 or 15 (the spec's decision D10; DESIGN CHOICE, log 12,
safe). -/
def execFeedRecover (p : UnusedPos) (b : Byte) (s : State) : Host.Outcome State Fault Refusal :=
  feedByRow p.pos .recover b s

end Sys2Proof.Machine
end

