-- ==== Sys2Proof/Machine/Commands.lean ====
section
/-! DEFINITION. The meanings of the four commands. -/

namespace Sys2Proof.Machine

/-- NOP (41_take.md R134). D is ignored (30_encoding.md R76). -/
def execNop (_d : Byte) (s : State) : Host.Outcome State Fault Refusal :=
  .next (nopStep s)

/-- FEED b (40_feed.md R100). -/
def execFeed (b : Byte) (s : State) : Host.Outcome State Fault Refusal :=
  .next (feedStep b s)

/-- TAKE (41_take.md R130). D is ignored (30_encoding.md R76). -/
def execTake (_d : Byte) (s : State) : Host.Outcome State Fault Refusal :=
  .next (takeStep s)

/-- TAKE_FEED b (41_take.md R133): TAKE on the state before the step, FEED on the state TAKE left (the spec's decision D3;
DESIGN CHOICE, log 11, unsafe for other implementations only). -/
def execTakeFeed (b : Byte) (s : State) : Host.Outcome State Fault Refusal :=
  .next (feedStep b (takeStep s))

end Sys2Proof.Machine
end

