-- ==== Sys2Proof/Machine/Dispatch.lean ====
section
/-! DEFINITION. The meaning of every instruction, one arm a constructor. -/

namespace Sys2Proof.Machine

def exec (i : Instr) (s : State) : Host.Outcome State Fault Refusal :=
  match i with
  | .nop d => Sys2Proof.Machine.execNop d s
  | .feed b => Sys2Proof.Machine.execFeed b s
  | .take d => Sys2Proof.Machine.execTake d s
  | .takeFeed b => Sys2Proof.Machine.execTakeFeed b s
  | .feedIdleStart => Sys2Proof.Machine.execFeedIdleStart s
  | .feedIdleSkip b => Sys2Proof.Machine.execFeedIdleSkip b s
  | .feedNib1 b => Sys2Proof.Machine.execFeedNib1 b s
  | .feedNib2 b => Sys2Proof.Machine.execFeedNib2 b s
  | .feedNib3 b => Sys2Proof.Machine.execFeedNib3 b s
  | .feedNib4 b => Sys2Proof.Machine.execFeedNib4 b s
  | .feedNib5 b => Sys2Proof.Machine.execFeedNib5 b s
  | .feedNib6 b => Sys2Proof.Machine.execFeedNib6 b s
  | .feedNib7 b => Sys2Proof.Machine.execFeedNib7 b s
  | .feedNib8 b => Sys2Proof.Machine.execFeedNib8 b s
  | .feedNib9 b => Sys2Proof.Machine.execFeedNib9 b s
  | .feedNib10 b => Sys2Proof.Machine.execFeedNib10 b s
  | .feedCkHi b => Sys2Proof.Machine.execFeedCkHi b s
  | .feedCkLo b => Sys2Proof.Machine.execFeedCkLo b s
  | .feedEnd b => Sys2Proof.Machine.execFeedEnd b s
  | .feedRecover p b => Sys2Proof.Machine.execFeedRecover p b s

end Sys2Proof.Machine
end

