-- ==== Sys2Proof/Machine/Edge.lean ====
section
/-! DEFINITION. One rising edge of `clk` (10_state.md R31). -/

namespace Sys2Proof.Machine

/-- R31: "If `rst = 1` the step is the reset"; otherwise the step executes the command word the ports present. Reset
overrides the command of its edge completely (30_encoding.md R75, 60_exceptions.md R154). -/
def clockEdge (e : EdgeInput) (s : State) : Host.Outcome State Fault Refusal :=
  if e.rst then .next (resetStep s) else exec (decodeCommand e.cmd) s

end Sys2Proof.Machine
end

