-- ==== Sys2Proof/Machine/Step.lean ====
section
/-! DEFINITION. The step, and the host's way of placing an instruction where the next step takes it. -/

namespace Sys2Proof.Machine

/-- One step is one rising edge (10_state.md R31): the edge takes the next inputs and acts. -/
def step (s : State) : Host.Outcome State Fault Refusal :=
  clockEdge s.nextEdge s.takeEdge

/-- `s` with the host's word presented at the coming edge (logs 5, 6). -/
def State.withFetchWord (s : State) (nbits w : Nat) : State :=
  s.presentWord (tableWord nbits w)

end Sys2Proof.Machine
end

