-- ==== Sys2Proof/Machine/Frame.lean ====
section
/-! DEFINITION. The wire frame (30_encoding.md R70, R72), what its characters spell, and the assembler's lines as lists of
commands (R86, R87). -/

namespace Sys2Proof.Machine

/-- The character of a nibble (R72): '0' to '9' for 0 to 9 and a letter for 10 to 15, upper case or lower case. -/
def hexChar (upper : Bool) (n : Nibble) : Byte :=
  if n ≤ 9#4 then Config.asciiZero + n.setWidth 8
  else (if upper then Config.asciiUpperA else Config.asciiLowerA) + (n.setWidth 8 - 10#8)

/-- '0' to '9', 'A' to 'F', 'a' to 'f' (R82; the codes, log 8). -/
def isHexChar (b : Byte) : Bool :=
  (0x30#8 ≤ b && b ≤ 0x39#8) || (0x41#8 ≤ b && b ≤ 0x46#8) || (0x61#8 ≤ b && b ≤ 0x66#8)

/-- Nibble slot k of the identifier, `id_acc[4k+3:4k]` (10_state.md R24). -/
def idNibble (v : Ident) (k : Nat) : Nibble :=
  v.extractLsb' (4 * k) 4

/-- `Hex10(v)` (R72): the characters of `v[39:36]` down to `v[3:0]`; `upper i` is the case of character i. -/
def hex10 (upper : Nat → Bool) (v : Ident) : List Byte :=
  (List.range Config.idNibbles).map (fun i => hexChar (upper i) (idNibble v (9 - i)))

/-- `Hex2(c)` (R72): the characters of `c[7:4]` and `c[3:0]`. -/
def hex2 (upper : Nat → Bool) (c : Checksum) : List Byte :=
  [hexChar (upper 10) (c.extractLsb' 4 4), hexChar (upper 11) (c.extractLsb' 0 4)]

/-- The fourteen bytes of R70 with any checksum characters and any last byte. -/
def frameWith (upper : Nat → Bool) (v : Ident) (c : Checksum) (e : Byte) : List Byte :=
  [Config.startMarker] ++ hex10 upper v ++ hex2 upper c ++ [e]

/-- `Frame(v)` (R72), in any mixture of cases. -/
def frame (upper : Nat → Bool) (v : Ident) : List Byte :=
  frameWith upper v (xor5 v) Config.endMarker

/-- The value whose nibble k is `HexNib(B(10-k))` (40_feed.md R110), of a frame's bytes `B`. -/
def idOfBytes (B : Nat → Byte) : Ident :=
  hexNib (B 1) ++ (hexNib (B 2) ++ (hexNib (B 3) ++ (hexNib (B 4) ++ (hexNib (B 5) ++ (hexNib (B 6) ++ (hexNib (B 7) ++
    (hexNib (B 8) ++ (hexNib (B 9) ++ hexNib (B 10)))))))))

/-- `{HexNib(B11), HexNib(B12)}` (R85, R110). -/
def checksumOfBytes (B : Nat → Byte) : Checksum :=
  hexNib (B 11) ++ hexNib (B 12)

/-- One FEED for each byte, in order (20_memory.md R60). -/
def feeds (bs : List Byte) : List Instr :=
  bs.map .feed

/-- The assembler's lines (R86, R87), a text given as its characters' codes (log 22). -/
inductive AsmLine where
  | nop
  | feed (b : Byte)
  | take
  | takeFeed (b : Byte)
  | frame (v : Ident)
  | frameCk (v : Ident) (c : Checksum)
  | frameEnd (v : Ident) (e : Byte)
  | frameLc (v : Ident)
  | feeds (text : List Byte)
  | wait (n : Nat)
  deriving DecidableEq, Repr

/-- The commands a line stands for (R86, R87). -/
def AsmLine.expand : AsmLine → List Instr
  | .nop => [.nop 0#8]
  | .feed b => [.feed b]
  | .take => [.take 0#8]
  | .takeFeed b => [.takeFeed b]
  | .frame v => Machine.feeds (Machine.frame (fun _ => true) v)
  | .frameCk v c => Machine.feeds (frameWith (fun _ => true) v c Config.endMarker)
  | .frameEnd v e => Machine.feeds (frameWith (fun _ => true) v (xor5 v) e)
  | .frameLc v => Machine.feeds (Machine.frame (fun _ => false) v)
  | .feeds text => Machine.feeds text
  | .wait n => List.replicate n (.nop 0#8)

/-- The words of a line (R86). -/
def AsmLine.words (l : AsmLine) : List InstrWord :=
  l.expand.map encode

end Sys2Proof.Machine
end

