-- ==== Sys2Proof/Machine/Anomaly.lean ====
section
/-! DEFINITION. The anomalies of 60_exceptions.md R151, labels for an observer: "no code for them exists in the hardware".
No step reads them. -/

namespace Sys2Proof.Machine

/-- The labels of R151. -/
inductive Anomaly where
  /-- `ANOM_IDLE_NOISE` -/
  | idleNoise
  /-- `ANOM_END_MARKER` -/
  | endMarker
  /-- `ANOM_CHECKSUM` -/
  | checksum
  /-- `ANOM_NONHEX` -/
  | nonHex
  /-- `ANOM_LOST` -/
  | lost
  deriving DecidableEq, Repr

/-- R151's condition column, for a FEED of `b` (no TAKE on the same step) in state `s`. -/
def Anomaly.occurs (a : Anomaly) (b : Byte) (s : State) : Bool :=
  match a with
  | .idleNoise => s.pos == 0#4 && b != Config.startMarker
  | .endMarker => s.pos == 13#4 && b != Config.endMarker
  | .checksum => s.pos == 13#4 && b == Config.endMarker && s.ckRx != xor5 s.idAcc
  | .nonHex => decide (1#4 ≤ s.pos) && decide (s.pos ≤ 12#4) && !isHexChar b
  | .lost => s.flag

end Sys2Proof.Machine
end

