-- ==== Sys2Proof/Machine/Ports.lean ====
section
/-! DEFINITION. The output ports (10_state.md R30, R32, R34), a function of the state. -/

namespace Sys2Proof.Machine

/-- The output ports. -/
structure Outputs where
  ready : Bool
  id : Ident
  frameOk : Bool
  rxCk : Checksum
  calcCk : Checksum
  posDbg : Pos
  deriving DecidableEq, Repr

/-- `ready = flag`, `id = id_acc` at all times (R32; while `ready = 0` it shows the accumulator; DESIGN CHOICE, log 13, unsafe to
read then), `rx_ck = ck_rx`,
`calc_ck = Xor5(id_acc)` combinational, `pos_dbg = pos` (R34). -/
def State.outputs (s : State) : Outputs where
  ready := s.flag
  id := s.idAcc
  frameOk := s.frameOk
  rxCk := s.ckRx
  calcCk := xor5 s.idAcc
  posDbg := s.pos

/-- The response the Consumer reads on the ports in the cycle in which it presents `take` (R33). -/
def Outputs.sampled (o : Outputs) : Option Ident :=
  if o.ready then some o.id else none

end Sys2Proof.Machine
end

