-- ==== Sys2Proof/Machine/Run.lean ====
section
/-! DEFINITION. Runs: a finite list of commands, one after another (70_reset_and_hazards.md R189), and what an observer counts
in the responses. -/

namespace Sys2Proof.Machine

/-- The instructions of a list executed in order, ending at the first stop. -/
def runCommands : List Instr → State → Host.Outcome State Fault Refusal
  | [], s => .next s
  | i :: is, s =>
    match exec i s with
    | .next t => runCommands is t
    | .fault f => .fault f
    | .refused r => .refused r

/-- The four commands of 30_encoding.md R74, as opposed to the arm rows of FEED. -/
def isCommand (i : Instr) : Bool :=
  (encode i).format == .cmd10

/-- `r` hands an identifier to the Consumer. -/
def Response.surfaces (r : Response) : Bool :=
  match r with
  | .take (some _) => true
  | .take none => false
  | .feed _ => false

/-- `r` is the result of a FEED that returned true. -/
def Response.accepts (r : Response) : Bool :=
  match r with
  | .take _ => false
  | .feed f => f

/-- How many responses a command gives (R189: one for each TAKE, one for each FEED). -/
def responseCount (i : Instr) : Nat :=
  match i with
  | .nop _ => 0
  | .feed _ => 1
  | .take _ => 1
  | .takeFeed _ => 2
  | .feedIdleStart => 1
  | .feedIdleSkip _ => 1
  | .feedNib1 _ => 1
  | .feedNib2 _ => 1
  | .feedNib3 _ => 1
  | .feedNib4 _ => 1
  | .feedNib5 _ => 1
  | .feedNib6 _ => 1
  | .feedNib7 _ => 1
  | .feedNib8 _ => 1
  | .feedNib9 _ => 1
  | .feedNib10 _ => 1
  | .feedCkHi _ => 1
  | .feedCkLo _ => 1
  | .feedEnd _ => 1
  | .feedRecover _ _ => 1

/-- One block among several steps (60_exceptions.md R170); a number that names none changes nothing. -/
def stepInstance (k : Nat) (blocks : List State) : List State :=
  blocks.modify k (fun s =>
    match step s with
    | .next t => t
    | .fault _ => s
    | .refused _ => s)

end Sys2Proof.Machine
end

