-- ==== Sys2Proof/Safety.lean ====
section
/-! DEFINITION. The invariant of 10_state.md R36 and what a safe run is, in the terms the statements use. -/

namespace Sys2Proof.Machine

/-- R36 item 1: `pos <= 13`. -/
abbrev State.PosInFrame (s : State) : Prop :=
  s.pos.toNat ≤ 13

/-- R36 item 2: if `1 <= pos <= 11` then `id_acc[4*(11-pos)-1:0] = 0`. -/
abbrev State.UnfilledSlotsZero (s : State) : Prop :=
  1 ≤ s.pos.toNat → s.pos.toNat ≤ 11 → ∀ k < 4 * (11 - s.pos.toNat), s.idAcc.getLsbD k = false

/-- R36 item 3: if `1 <= pos <= 11` then `ck_rx = 0x00`; if `pos = 12` then `ck_rx[3:0] = 0`. -/
abbrev State.ChecksumUnfilledZero (s : State) : Prop :=
  (1 ≤ s.pos.toNat → s.pos.toNat ≤ 11 → s.ckRx = 0x00#8) ∧ (s.pos.toNat = 12 → s.ckRx.extractLsb' 0 4 = 0#4)

/-- R36 item 4: if `flag = 1` then `pos = 0` and `ck_rx = Xor5(id_acc)`. -/
abbrev State.ReadyFrameValid (s : State) : Prop :=
  s.flag = true → s.pos = 0#4 ∧ s.ckRx = xor5 s.idAcc

/-- Items 1 to 4 of R36. -/
abbrev State.Inv (s : State) : Prop :=
  s.PosInFrame ∧ s.UnfilledSlotsZero ∧ s.ChecksumUnfilledZero ∧ s.ReadyFrameValid

/-- The single-slot handoff seen from the responses (41_take.md R132): the identifiers handed over, with the one that waits,
are never more than the FEEDs that returned true. -/
abbrev State.SurfacedAtMostOnce (s : State) : Prop :=
  s.responses.countP Response.surfaces + s.flag.toNat ≤ s.responses.countP Response.accepts

/-- The result of the last FEED among the responses. -/
def lastFeedResult (rs : List Response) : Option Bool :=
  rs.foldl (fun acc r =>
    match r with
    | .feed f => some f
    | .take _ => acc) none

/-- R36 item 5, as far as the responses tell it: if `flag = 1`, the last FEED returned true. -/
abbrev State.ReadyAfterAcceptance (s : State) : Prop :=
  s.flag = true → lastFeedResult s.responses = some true

end Sys2Proof.Machine
end

