-- ==== Sys2Proof/Certificates/Slice0/Obligations.lean ====
section
/-! DEFINITION. The statements for the provers. Each cites the rule of spec/ it formalises; where a clause is the spec's own
inference or the model's choice, the docstring says so. -/

open Sys2Proof Sys2Proof.Machine

/-! ## Encoding -/

/-- 30_encoding.md R74: `T` and `V` select the command, D is its operand, and every one of the 1024 words decodes to one
of the four. -/
def Obligations.CommandWordDecode : Prop :=
  (∀ d : Byte, decodeCommand (0b00#2 ++ d) = .nop d) ∧ (∀ d : Byte, decodeCommand (0b01#2 ++ d) = .feed d) ∧
  (∀ d : Byte, decodeCommand (0b10#2 ++ d) = .take d) ∧ (∀ d : Byte, decodeCommand (0b11#2 ++ d) = .takeFeed d) ∧
  ∀ n < 1024, ∃ i, decode .cmd10 n = .ok i ∧ isCommand i = true

/-- Words written out from R73, R74 and R77, one of each family, and two numbers that are no word. -/
def Obligations.WordsWrittenOutDecode : Prop :=
  decode .cmd10 0b0010101011 = .ok (.nop 0xAB#8) ∧ decode .cmd10 0b0101000110 = .ok (.feed 0x46#8) ∧
  decode .cmd10 0b1011111111 = .ok (.take 0xFF#8) ∧ decode .cmd10 0b1101011010 = .ok (.takeFeed 0x5A#8) ∧
  decode .arm12 0b000000000010 = .ok .feedIdleStart ∧ decode .arm12 0b000000000011 = .ok (.feedIdleSkip 0x03#8) ∧
  decode .arm12 0b101001100001 = .ok (.feedNib10 0x61#8) ∧ decode .arm12 0b110100000011 = .ok (.feedEnd 0x03#8) ∧
  decode .arm12 0b111100110000 = .ok (.feedRecover .p15 0x30#8) ∧
  decode .cmd10 0x400 = .error .commandWiderThan10Bits ∧ decode .arm12 0x1000 = .error .armWordWiderThan12Bits

/-- No bit of an encoding is dropped: every well-formed instruction, with every operand, is what its word decodes to
(R73, R74, R77). -/
def Obligations.DecodeOfEncodeIsIdentity : Prop :=
  ∀ i : Instr, i.wf = true → decodeWord (encode i) = i

/-- The other direction: every word of either format decodes to a well-formed instruction whose word it is. That NOP and
TAKE words come back with the bits D they had is the model's choice (DESIGN CHOICE, log 18: the two constructors carry D):
by R76 the 256 NOP words mean the same, and so do the 256 TAKE words (statement DataBitsIgnoredWithoutValid). -/
def Obligations.EncodeOfDecodeIsIdentity : Prop :=
  ∀ w : InstrWord, encode (decodeWord w) = w ∧ (decodeWord w).wf = true

/-- 30_encoding.md R77: the first matching row of the table, in its order, gives the arm, for every position and byte; and a
FEED's effect is that arm's. -/
def Obligations.ArmIsFirstMatchingRow : Prop :=
  (∀ (p : Pos) (b : Byte), firstMatchingArm p b = some (selectArm p b)) ∧
  ∀ (s : State) (b : Byte) (a : Arm), firstMatchingArm s.pos b = some a → exec (.feed b) s = exec (a.instr s.pos b) s

/-- 30_encoding.md R76: in NOP and TAKE (`in_valid` = 0) the eight data bits have no effect on the step, and every value of
them is legal (the step answers); and no command word is reserved or illegal. -/
def Obligations.DataBitsIgnoredWithoutValid : Prop :=
  (∀ n < 1024, ∃ i, decode .cmd10 n = .ok i) ∧
  ∀ (e : EdgeInput) (d : Byte) (s : State), e.inValid = false →
    clockEdge { e with inData := d } s = clockEdge e s ∧ ∃ t, clockEdge e s = .next t

/-- The words of the assembler's one-command lines (R86) and the expansions of the pseudo-instructions (R87), the spelling
of a line left out (log 22): FRAME and FRAMELC feed the fourteen bytes of R70 in order, the characters of R72 in upper and
in lower case; `ck=` replaces the two checksum characters and `end=` the byte at offset 13; FEEDS is one FEED for each
character, in order; WAIT n is n NOPs. The last clause is R72's character table, with the codes of R10 (log 8). -/
def Obligations.AssemblerLinesExpand : Prop :=
  AsmLine.nop.words = [.cmd 0x000#10] ∧ AsmLine.take.words = [.cmd 0x200#10] ∧
  (∀ b : Byte, (AsmLine.feed b).words = [.cmd (0x100#10 ||| b.setWidth 10)] ∧
    (AsmLine.takeFeed b).words = [.cmd (0x300#10 ||| b.setWidth 10)]) ∧
  (∀ (upper : Bool) (v : Ident),
    (if upper then AsmLine.frame v else AsmLine.frameLc v).expand =
      [.feed 0x02#8,
       .feed (hexChar upper (v.extractLsb' 36 4)), .feed (hexChar upper (v.extractLsb' 32 4)),
       .feed (hexChar upper (v.extractLsb' 28 4)), .feed (hexChar upper (v.extractLsb' 24 4)),
       .feed (hexChar upper (v.extractLsb' 20 4)), .feed (hexChar upper (v.extractLsb' 16 4)),
       .feed (hexChar upper (v.extractLsb' 12 4)), .feed (hexChar upper (v.extractLsb' 8 4)),
       .feed (hexChar upper (v.extractLsb' 4 4)), .feed (hexChar upper (v.extractLsb' 0 4)),
       .feed (hexChar upper ((xor5 v).extractLsb' 4 4)), .feed (hexChar upper ((xor5 v).extractLsb' 0 4)),
       .feed 0x03#8]) ∧
  (∀ (v : Ident) (c : Checksum),
    (AsmLine.frameCk v c).expand =
      (AsmLine.frame v).expand.take 11 ++
        [.feed (hexChar true (c.extractLsb' 4 4)), .feed (hexChar true (c.extractLsb' 0 4))] ++
        (AsmLine.frame v).expand.drop 13) ∧
  (∀ (v : Ident) (e : Byte), (AsmLine.frameEnd v e).expand = (AsmLine.frame v).expand.take 13 ++ [.feed e]) ∧
  (∀ text : List Byte, (AsmLine.feeds text).expand = text.map .feed) ∧
  (∀ n, (AsmLine.wait n).expand = List.replicate n (.nop 0x00#8)) ∧
  (∀ upper : Bool, (List.range 16).map (fun n => hexChar upper (BitVec.ofNat 4 n)) =
    [0x30#8, 0x31#8, 0x32#8, 0x33#8, 0x34#8, 0x35#8, 0x36#8, 0x37#8, 0x38#8, 0x39#8] ++
      if upper then [0x41#8, 0x42#8, 0x43#8, 0x44#8, 0x45#8, 0x46#8]
      else [0x61#8, 0x62#8, 0x63#8, 0x64#8, 0x65#8, 0x66#8])

/-! ## Operands and checksum -/

/-- The closed form of R81 for every byte, which the spec infers from R80, and R82's reading of the 22 hex characters. -/
def Obligations.HexNibClosedForm : Prop :=
  (∀ b : Byte, 0x30#8 ≤ b → b ≤ 0x39#8 → hexNib b = b.extractLsb' 0 4) ∧
  (∀ b : Byte, ¬ (0x30#8 ≤ b ∧ b ≤ 0x39#8) → (hexNib b).toNat = ((b.extractLsb' 0 4).toNat + 9) % 16) ∧
  (∀ (upper : Bool) (n : Nibble), hexNib (hexChar upper n) = n ∧ isHexChar (hexChar upper n) = true)

/-- 30_encoding.md R83: `contribution(p, b)` is `HexNib(b)` at bits `shift(p)+3 : shift(p)` and zero elsewhere, with
`shift(p) = (10 - p) * 4`. -/
def Obligations.NibblePlacement : Prop :=
  ∀ (p : Nat) (b : Byte) (k : Nat), 1 ≤ p → p ≤ 10 →
    (contribution p b).getLsbD k =
      if (10 - p) * 4 ≤ k ∧ k < (10 - p) * 4 + 4 then (hexNib b).getLsbD (k - (10 - p) * 4) else false

/-- The checksum does not depend on the order the identifier's five bytes are combined in (20_memory.md R54, which the
spec infers from R84). -/
def Obligations.ChecksumOrderIrrelevant : Prop :=
  ∀ (v : Ident) (l : List Byte),
    l.Perm [v.extractLsb' 0 8, v.extractLsb' 8 8, v.extractLsb' 16 8, v.extractLsb' 24 8, v.extractLsb' 32 8] →
      l.foldl (· ^^^ ·) 0#8 = xor5 v

/-- A 64-bit accumulator and the 40-bit one hold the same value (00_scope.md R7, which the spec infers from R80 and R104):
ORing a nibble in commutes with widening. -/
def Obligations.WideAccumulatorAgrees : Prop :=
  ∀ (p : Nat) (b : Byte) (v : Ident), 1 ≤ p → p ≤ 10 →
    (v ||| contribution p b).setWidth 64 = v.setWidth 64 ||| ((hexNib b).setWidth 64 <<< ((10 - p) * 4))

/-! ## Steps and reset -/

/-- 10_state.md R31: with `rst = 0` the step executes the command word `{take, in_valid, in_data}` of the edge, the input
taken from the list; with `rst = 1` it is the reset; and it never stalls. An edge with `take = 0` and `in_valid = 0` is a
NOP. -/
def Obligations.StepRunsPresentedCommand : Prop :=
  ∀ (s : State) (e : EdgeInput) (rest : List EdgeInput), s.pending = e :: rest →
    (∃ t, step s = .next t) ∧
    (e.rst = true → step s = .next (resetStep { s with pending := rest })) ∧
    (∀ i, e.rst = false → decode .cmd10 (commandWord e.take e.inValid e.inData).toNat = .ok i →
      step s = exec i { s with pending := rest }) ∧
    (e.rst = false → e.take = false → e.inValid = false → step s = exec (.nop e.inData) { s with pending := rest })

/-- The model's choice of how a word comes to run (logs 5, 6): a command word placed by `withFetchWord` is what the next step
runs, on the state it was placed in; an arm word `{pos, InByte}` likewise, with `pos` the word's. -/
def Obligations.PlacedWordIsRunNext : Prop :=
  (∀ (s : State) (n : Nat) (w : CmdWord), n = 10 ∨ n = 16 →
    decodeTableWord n w.toNat = some (decodeCommand w) ∧ step (s.withFetchWord n w.toNat) = exec (decodeCommand w) s) ∧
  ∀ (s : State) (n : Nat) (w : ArmWord), n = 12 ∨ n = 16 ∧ 1024 ≤ w.toNat →
    decodeTableWord n w.toNat = some (decodeArmWord w) ∧
    step (s.withFetchWord n w.toNat) = exec (decodeArmWord w) { s with pos := w.extractLsb' 8 4 }

/-- 60_exceptions.md R150: every one of the 1024 command words has a defined step from every state, the unreachable
ones too, and so has every edge. -/
def Obligations.EveryCommandCompletes : Prop :=
  (∀ (w : CmdWord) (s : State), ∃ t, exec (decodeCommand w) s = .next t) ∧ ∀ s : State, ∃ t, step s = .next t

/-- The model's choice (log 2): where the outside drives nothing, the edge is a NOP. -/
def Obligations.UndrivenEdgeIsNop : Prop :=
  ∀ s : State, s.pending = [] → step s = exec (.nop 0x00#8) s

/-- 70_reset_and_hazards.md R180: an edge with `rst = 1` sets every register to its reset value, whatever the command, the
byte and the state (R182), and gives no response. That the earlier responses stay is the model's choice (DESIGN CHOICE,
log 3), so the statement is derived. -/
def Obligations.ResetOverridesCommand : Prop :=
  ∀ (s : State) (e : EdgeInput) (rest : List EdgeInput), s.pending = e :: rest → e.rst = true →
    step s = .next { pos := 0#4, idAcc := 0x0000000000#40, ckRx := 0x00#8, flag := false, frameOk := false,
                     pending := rest, responses := s.responses }

/-- 10_state.md R35: the registers after reset, and what the outputs then read. The outputs clause is an inference the spec
marks as its own (from R32 and R34), so the statement is derived. -/
def Obligations.ResetRegisterValues : Prop :=
  State.reset.pos = 0#4 ∧ State.reset.idAcc = 0x0000000000#40 ∧ State.reset.ckRx = 0x00#8 ∧ State.reset.flag = false ∧
  State.reset.frameOk = false ∧
  State.reset.outputs = { ready := false, id := 0#40, frameOk := false, rxCk := 0x00#8, calcCk := 0x00#8, posDbg := 0#4 }

/-- The invariants hold after reset: items 1 to 4 of 10_state.md R36, the handoff count of 41_take.md R132, and item 5 of
R36 as the responses show it (log 21, DEDUCED: the model's reading). The last two rest on the recorded responses being
empty after reset, which is the model's choice (DESIGN CHOICE, log 3). -/
def Obligations.InvariantsHoldAtReset : Prop :=
  State.reset.Inv ∧ State.reset.SurfacedAtMostOnce ∧ State.reset.ReadyAfterAcceptance

/-- 10_state.md R36 items 1 to 4: every step, a reset edge too, keeps the invariant, from every state that meets it. -/
def Obligations.StepKeepsRegisterInvariant : Prop :=
  ∀ s t : State, s.Inv → step s = .next t → t.Inv

/-- 41_take.md R132 (the spec's inference): every step keeps that the identifiers surfaced, with the one that waits, are no
more than the FEEDs that returned true, both counted in the recorded responses, which a reset edge keeps (the model's
choice, log 3). -/
def Obligations.StepKeepsSurfacedAtMostOnce : Prop :=
  ∀ s t : State, s.SurfacedAtMostOnce → step s = .next t → t.SurfacedAtMostOnce

/-- 10_state.md R36 item 5, as the model reads a fact about history (log 21, DEDUCED): every step keeps that a ready
identifier means the last FEED among the recorded responses returned true; and a FEED (or TAKE_FEED) that returned true was
an END whose byte was 0x03. -/
def Obligations.ReadyMeansLastFeedAccepted : Prop :=
  (∀ s t : State, s.ReadyAfterAcceptance → step s = .next t → t.ReadyAfterAcceptance) ∧
  ∀ (s t : State) (b : Byte), exec (.feed b) s = .next t ∨ exec (.takeFeed b) s = .next t → t.flag = true →
    s.pos = 13#4 ∧ b = 0x03#8

/-- 10_state.md R23: no sequence of inputs from the reset state, of any length, brings `pos` to 14 or 15. -/
def Obligations.UnusedPositionsUnreachable : Prop :=
  ∀ (inputs : List EdgeInput) (n : Nat) (t : State),
    core.run n { State.reset with pending := inputs } = .next t → t.pos ≠ 14#4 ∧ t.pos ≠ 15#4

/-! ## FEED and its arms -/

/-- 40_feed.md R100: a FEED completes from every state with every byte; its effect is that of the arm its position and byte
select; its result is `flag` after the arm, and `frame_ok` takes it. R101: the flag is cleared first, so nothing the FEED
does depends on what the flag was. -/
def Obligations.FeedTakesSelectedArm : Prop :=
  ∀ (s : State) (b : Byte), ∃ t, exec (.feed b) s = .next t ∧ exec (armInstr s.pos b) s = .next t ∧
    t.responses = s.responses ++ [.feed t.flag] ∧ t.frameOk = t.flag ∧
    (t.flag = true → s.pos = 13#4) ∧ ∀ f : Bool, exec (.feed b) { s with flag := f } = .next t

/-- 40_feed.md R110, first sentence (the spec's inference from R101 and R107): a FEED returns true if and only if it
executes END with byte 0x03 and the received checksum is the computed one. -/
def Obligations.FeedTrueExactlyOnAcceptance : Prop :=
  ∀ (s : State) (b : Byte), ∃ t r, exec (.feed b) s = .next t ∧ t.responses = s.responses ++ [.feed r] ∧
    (r = true ↔ s.pos = 13#4 ∧ b = 0x03#8 ∧ s.ckRx = xor5 s.idAcc)

/-- 40_feed.md R102. -/
def Obligations.IdleStartResult : Prop :=
  ∀ s : State, s.pos = 0#4 →
    exec .feedIdleStart s = .next { s with idAcc := 0x0000000000#40, ckRx := 0x00#8, pos := 1#4, flag := false,
                                           frameOk := false, responses := s.responses ++ [.feed false] } ∧
    exec (.feed 0x02#8) s = exec .feedIdleStart s

/-- 40_feed.md R103: nothing but the flag clear (and the result). -/
def Obligations.IdleSkipResult : Prop :=
  ∀ (s : State) (b : Byte), s.pos = 0#4 → b ≠ 0x02#8 →
    exec (.feedIdleSkip b) s = .next { s with flag := false, frameOk := false,
                                              responses := s.responses ++ [.feed false] } ∧
    exec (.feed b) s = exec (.feedIdleSkip b) s

/-- 40_feed.md R104, for p = 1 to 10 and every byte: the nibble is ORed in at bit `(10 - p) * 4` and the position advances
by one. -/
def Obligations.NibResult : Prop :=
  ∀ (s : State) (b : Byte) (p : Nat) (i : Instr),
    (p, i) ∈ [(1, Instr.feedNib1 b), (2, .feedNib2 b), (3, .feedNib3 b), (4, .feedNib4 b), (5, .feedNib5 b),
              (6, .feedNib6 b), (7, .feedNib7 b), (8, .feedNib8 b), (9, .feedNib9 b), (10, .feedNib10 b)] →
    s.pos = BitVec.ofNat 4 p →
      exec i s = .next { s with idAcc := s.idAcc ||| ((hexNib b).setWidth 40 <<< ((10 - p) * 4)),
                                pos := BitVec.ofNat 4 (p + 1), flag := false, frameOk := false,
                                responses := s.responses ++ [.feed false] } ∧
      exec (.feed b) s = exec i s

/-- 40_feed.md R105: the write replaces `ck_rx`. -/
def Obligations.CkHiResult : Prop :=
  ∀ (s : State) (b : Byte), s.pos = 11#4 →
    exec (.feedCkHi b) s = .next { s with ckRx := hexNib b ++ 0b0000#4, pos := 12#4, flag := false, frameOk := false,
                                          responses := s.responses ++ [.feed false] } ∧
    exec (.feed b) s = exec (.feedCkHi b) s

/-- 40_feed.md R106: an OR. -/
def Obligations.CkLoResult : Prop :=
  ∀ (s : State) (b : Byte), s.pos = 12#4 →
    exec (.feedCkLo b) s = .next { s with ckRx := s.ckRx ||| (hexNib b).setWidth 8, pos := 13#4, flag := false,
                                          frameOk := false, responses := s.responses ++ [.feed false] } ∧
    exec (.feed b) s = exec (.feedCkLo b) s

/-- 40_feed.md R107: `flag` is 1 after the step iff the byte is 0x03 and `ck_rx` is the XOR of the identifier's five bytes;
`pos` is 0 and the accumulators are kept whatever the outcome. -/
def Obligations.EndResult : Prop :=
  ∀ (s : State) (b : Byte), s.pos = 13#4 →
    ∃ f : Bool, (f = true ↔ b = 0x03#8 ∧
        s.ckRx = s.idAcc.extractLsb' 32 8 ^^^ s.idAcc.extractLsb' 24 8 ^^^ s.idAcc.extractLsb' 16 8 ^^^
          s.idAcc.extractLsb' 8 8 ^^^ s.idAcc.extractLsb' 0 8) ∧
      exec (.feedEnd b) s = .next { s with pos := 0#4, flag := f, frameOk := f, responses := s.responses ++ [.feed f] } ∧
      exec (.feed b) s = exec (.feedEnd b) s

/-- 40_feed.md R108: from positions 14 and 15, whatever the byte (0x02 starts no frame). -/
def Obligations.RecoverResult : Prop :=
  ∀ (s : State) (b : Byte) (p : UnusedPos), s.pos = p.pos →
    exec (.feedRecover p b) s = .next { s with pos := 0#4, flag := false, frameOk := false,
                                               responses := s.responses ++ [.feed false] } ∧
    exec (.feed b) s = exec (.feedRecover p b) s

/-- The model's choice (log 4): an arm row runs exactly where some byte makes it the selected row, and is refused by its own
name elsewhere; a command is never refused. -/
def Obligations.ArmRowRunsOnlyWhereSelected : Prop :=
  ∀ (i : Instr) (s : State),
    (isCommand i = true → ∃ t, exec i s = .next t) ∧
    (isCommand i = false → (∃ b, armInstr s.pos b = i) → ∃ t, exec i s = .next t) ∧
    (isCommand i = false → (¬ ∃ b, armInstr s.pos b = i) → exec i s = .refused .armNotSelected)

/-- The OR of NIB is a field insert (10_state.md R36, last sentence, the spec's inference): where the slots not yet filled
are zero, slot 10 - p becomes the nibble and every other slot keeps its value. -/
def Obligations.NibFillsItsSlotOnly : Prop :=
  ∀ (s t : State) (b : Byte), s.UnfilledSlotsZero → 1 ≤ s.pos.toNat → s.pos.toNat ≤ 10 →
    exec (.feed b) s = .next t →
      idNibble t.idAcc (10 - s.pos.toNat) = hexNib b ∧
      ∀ k < 10, k ≠ 10 - s.pos.toNat → idNibble t.idAcc k = idNibble s.idAcc k

/-! ## TAKE, TAKE_FEED, NOP -/

/-- 41_take.md R130. -/
def Obligations.TakeResult : Prop :=
  ∀ (s : State) (d : Byte),
    (s.flag = true → exec (.take d) s = .next { s with flag := false, frameOk := false,
                                                       responses := s.responses ++ [.take (some s.idAcc)] }) ∧
    (s.flag = false → exec (.take d) s = .next { s with flag := false, frameOk := false,
                                                        responses := s.responses ++ [.take none] })

/-- 41_take.md R131: with no frame ready TAKE answers `None` and changes no register but `frame_ok`. -/
def Obligations.TakeWithNoneReady : Prop :=
  ∀ (s : State) (d : Byte), s.flag = false →
    exec (.take d) s = .next { s with frameOk := false, responses := s.responses ++ [.take none] }

/-- 41_take.md R132 (the spec's inference from R130 and R110): after a TAKE and any commands of which no FEED returned
true, a TAKE answers `None`. -/
def Obligations.SecondTakeReturnsNone : Prop :=
  ∀ (is : List Instr) (s s₁ s₂ : State) (d d' : Byte) (rs : List Response),
    is.all isCommand = true → exec (.take d) s = .next s₁ → runCommands is s₁ = .next s₂ →
    s₂.responses = s₁.responses ++ rs → rs.all (fun r => !r.accepts) = true →
      ∃ t, exec (.take d') s₂ = .next t ∧ t.responses = s₂.responses ++ [.take none]

/-- 41_take.md R133: TAKE on the state before the step, then FEED on the state TAKE left, in one step; both responses are
given, TAKE's first. -/
def Obligations.TakeFeedIsTakeThenFeed : Prop :=
  ∀ (s : State) (b d : Byte), ∃ m t, exec (.take d) s = .next m ∧ exec (.feed b) m = .next t ∧
    exec (.takeFeed b) s = .next t ∧
    t.responses = s.responses ++ [.take (if s.flag then some s.idAcc else none), .feed t.flag]

/-- 41_take.md R134: `frame_ok <- 0` and nothing else; so a ready identifier survives any number of NOPs and the TAKE after
them returns it. -/
def Obligations.NopKeepsReadyIdentifier : Prop :=
  (∀ (s : State) (d : Byte), exec (.nop d) s = .next { s with frameOk := false }) ∧
  ∀ (s : State) (d d' : Byte) (n : Nat), s.flag = true →
    runCommands (List.replicate n (.nop d) ++ [.take d']) s =
      .next { s with flag := false, frameOk := false, responses := s.responses ++ [.take (some s.idAcc)] }

/-- 60_exceptions.md R158: a frame interrupted for any number of NOPs keeps `pos` and the accumulators, and the next byte is
taken as the next offset: the FEED after them does what it would have done at once. -/
def Obligations.PartialFrameWaitsForEver : Prop :=
  ∀ (s : State) (d b : Byte) (n : Nat),
    (∃ t, runCommands (List.replicate n (.nop d)) s = .next t ∧ t.pos = s.pos ∧ t.idAcc = s.idAcc ∧ t.ckRx = s.ckRx) ∧
    ∃ t, runCommands (List.replicate n (.nop d) ++ [.feed b]) s = .next t ∧ exec (.feed b) s = .next t

/-! ## What the registers are written by -/

/-- 10_state.md R27: `frame_ok` is written on every step; it is 1 exactly if the step executed a FEED and `flag` is 1 at the
end. -/
def Obligations.FrameOkShowsLastFeed : Prop :=
  ∀ (t v : Bool) (d : Byte) (s : State), ∃ s', exec (decodeCommand (commandWord t v d)) s = .next s' ∧
    s'.frameOk = (v && s'.flag)

/-- 10_state.md R22: only FEED changes `pos`; position 0 goes to 1 on a start marker and stays 0 otherwise, positions 1 to
12 advance by one whatever the byte, position 13 goes to 0 whatever the byte. -/
def Obligations.PosSequence : Prop :=
  ∀ (t v : Bool) (d : Byte) (s : State), ∃ s', exec (decodeCommand (commandWord t v d)) s = .next s' ∧
    (v = false → s'.pos = s.pos) ∧
    (v = true → s.pos = 0#4 → d = 0x02#8 → s'.pos = 1#4) ∧
    (v = true → s.pos = 0#4 → d ≠ 0x02#8 → s'.pos = 0#4) ∧
    (v = true → 1 ≤ s.pos.toNat → s.pos.toNat ≤ 12 → s'.pos.toNat = s.pos.toNat + 1) ∧
    (v = true → s.pos = 13#4 → s'.pos = 0#4)

/-- 10_state.md R26: the flag is true only between an accepted END and the read-out or the next byte: after a step it is 1
exactly if the step was an accepting END, or a NOP with the flag 1 before it. -/
def Obligations.FlagRisesOnlyOnAcceptance : Prop :=
  ∀ (t v : Bool) (d : Byte) (s : State), ∃ s', exec (decodeCommand (commandWord t v d)) s = .next s' ∧
    (s'.flag = true ↔
      (v = true ∧ s.pos = 13#4 ∧ d = 0x03#8 ∧ s.ckRx = xor5 s.idAcc) ∨ (t = false ∧ v = false ∧ s.flag = true))

/-- The "written by" column of 10_state.md R21 for the two accumulators: a command changes `id_acc` only as a FEED at
positions 1 to 10 or a start marker at position 0, which clears it, and `ck_rx` only as a FEED at positions 11 and 12 or
that start marker; so after a completed frame both are kept until the next start marker (R24, R25). -/
def Obligations.AccumulatorWriters : Prop :=
  ∀ (t v : Bool) (d : Byte) (s : State), ∃ s', exec (decodeCommand (commandWord t v d)) s = .next s' ∧
    (¬ (v = true ∧ (s.pos = 0#4 ∧ d = 0x02#8 ∨ 1 ≤ s.pos.toNat ∧ s.pos.toNat ≤ 10)) → s'.idAcc = s.idAcc) ∧
    (¬ (v = true ∧ (s.pos = 0#4 ∧ d = 0x02#8 ∨ s.pos = 11#4 ∨ s.pos = 12#4)) → s'.ckRx = s.ckRx) ∧
    (v = true → s.pos = 0#4 → d = 0x02#8 → s'.idAcc = 0#40 ∧ s'.ckRx = 0x00#8)

/-- The frame of all twenty instructions: none touches the inputs still to come; the responses only grow, by as many as the
instruction gives; NOP leaves every register but `frame_ok` (R134), TAKE leaves `pos` and both accumulators (R130); an arm
row leaves the accumulators it does not write, and IDLE_SKIP `pos` too; IDLE_START, which writes every register, leaves
exactly R102's values; FEED and TAKE_FEED leave an accumulator except at its writers' positions (R21), and `pos` on an idle
byte that is no start marker (R103). -/
def Obligations.InstructionFrame : Prop :=
  ∀ (i : Instr) (s t : State), exec i s = .next t →
    t.pending = s.pending ∧
    (∃ rs, t.responses = s.responses ++ rs ∧ rs.length = responseCount i) ∧
    (∀ b, i = .nop b → t.flag = s.flag) ∧
    (∀ b, i = .nop b ∨ i = .take b → t.pos = s.pos ∧ t.idAcc = s.idAcc ∧ t.ckRx = s.ckRx) ∧
    (∀ b, i = .feed b ∨ i = .takeFeed b →
      (¬ (s.pos = 0#4 ∧ b = 0x02#8 ∨ 1 ≤ s.pos.toNat ∧ s.pos.toNat ≤ 10) → t.idAcc = s.idAcc) ∧
      (¬ (s.pos = 0#4 ∧ b = 0x02#8 ∨ s.pos = 11#4 ∨ s.pos = 12#4) → t.ckRx = s.ckRx) ∧
      (s.pos = 0#4 → b ≠ 0x02#8 → t.pos = s.pos)) ∧
    (i = .feedIdleStart →
      t.pos = 1#4 ∧ t.idAcc = 0x0000000000#40 ∧ t.ckRx = 0x00#8 ∧ t.flag = false ∧ t.frameOk = false) ∧
    (∀ b, i = .feedIdleSkip b → t.pos = s.pos ∧ t.idAcc = s.idAcc ∧ t.ckRx = s.ckRx) ∧
    (∀ b, i = .feedNib1 b ∨ i = .feedNib2 b ∨ i = .feedNib3 b ∨ i = .feedNib4 b ∨ i = .feedNib5 b ∨ i = .feedNib6 b ∨
      i = .feedNib7 b ∨ i = .feedNib8 b ∨ i = .feedNib9 b ∨ i = .feedNib10 b → t.ckRx = s.ckRx) ∧
    (∀ b, i = .feedCkHi b ∨ i = .feedCkLo b → t.idAcc = s.idAcc) ∧
    (∀ b, i = .feedEnd b → t.idAcc = s.idAcc ∧ t.ckRx = s.ckRx) ∧
    (∀ p b, i = .feedRecover p b → t.idAcc = s.idAcc ∧ t.ckRx = s.ckRx)

/-- The six output ports of 10_state.md R30 in every state: `ready` is `flag` and `id` is `id_acc` at all times (R32),
`frame_ok` is the register, `rx_ck` is `ck_rx`, `calc_ck` is the XOR of the five bytes of `id_acc` and `pos_dbg` is `pos`
(R34). The response of a TAKE is the pair (`ready`, `id`) before the edge, and the edge then clears `flag` (R33). -/
def Obligations.TakeResponseIsOnThePorts : Prop :=
  (∀ s : State, s.outputs =
    { ready := s.flag, id := s.idAcc, frameOk := s.frameOk, rxCk := s.ckRx,
      calcCk := s.idAcc.extractLsb' 32 8 ^^^ s.idAcc.extractLsb' 24 8 ^^^ s.idAcc.extractLsb' 16 8 ^^^
        s.idAcc.extractLsb' 8 8 ^^^ s.idAcc.extractLsb' 0 8,
      posDbg := s.pos }) ∧
  ∀ (s : State) (d : Byte), ∃ t, exec (.take d) s = .next t ∧ t.outputs.ready = false ∧
    (s.outputs.ready = true → t.responses = s.responses ++ [.take (some s.outputs.id)]) ∧
    (s.outputs.ready = false → t.responses = s.responses ++ [.take none])

/-! ## Malformed input -/

/-- 60_exceptions.md R152: a wrong end marker and a checksum mismatch leave the same state, in every register and output. -/
def Obligations.DropsIndistinguishable : Prop :=
  ∀ (s : State) (b : Byte), s.pos = 13#4 → s.ckRx ≠ xor5 s.idAcc → b ≠ 0x03#8 →
    ∃ t, exec (.feed b) s = .next t ∧ exec (.feed 0x03#8) s = .next t

/-- The effect column of 60_exceptions.md R151 for each of its five labels (`ANOM_LOST` is the spec's inference from
R101): no anomaly stops the block. -/
def Obligations.AnomaliesResynchronise : Prop :=
  ∀ (a : Anomaly) (s : State) (b : Byte), a.occurs b s = true → ∃ t, exec (.feed b) s = .next t ∧
    match a with
    | .idleNoise => t.pos = s.pos ∧ t.idAcc = s.idAcc ∧ t.ckRx = s.ckRx ∧ t.flag = false
    | .endMarker => t.pos = 0#4 ∧ t.idAcc = s.idAcc ∧ t.ckRx = s.ckRx ∧ t.flag = false
    | .checksum => t.pos = 0#4 ∧ t.idAcc = s.idAcc ∧ t.ckRx = s.ckRx ∧ t.flag = false
    | .nonHex => t.pos.toNat = s.pos.toNat + 1 ∧ t.flag = false ∧
        (s.pos.toNat ≤ 10 → t.idAcc = s.idAcc ||| contribution s.pos.toNat b) ∧
        (s.pos = 11#4 → t.ckRx = checksumHigh b) ∧ (s.pos = 12#4 → t.ckRx = s.ckRx ||| checksumLow b)
    | .lost => s.pos ≠ 13#4 → t.flag = false ∧ t.takeResponse = none

/-- 70_reset_and_hazards.md R184 (the spec's inference): a ready identifier is received by a TAKE_FEED on the edge of the
next byte, and lost by a FEED there; a ready frame has `pos = 0` (R36 item 4). -/
def Obligations.HandoffWindow : Prop :=
  ∀ (s : State) (b d : Byte), s.flag = true → s.pos = 0#4 →
    (∃ t, exec (.takeFeed b) s = .next t ∧ t.responses = s.responses ++ [.take (some s.idAcc), .feed false]) ∧
    ∃ t, runCommands [.feed b, .take d] s = .next t ∧ t.responses = s.responses ++ [.feed false, .take none]

/-! ## Frames -/

/-- 40_feed.md R110, second sentence (the spec's inference): from `pos = 0`, any fourteen bytes return true at most once, at
the last, and do so iff the first is 0x02, the last 0x03 and the received checksum is that of the identifier the bytes
spell; a frame begun by the first byte is consumed whole and leaves its identifier and checksum. -/
def Obligations.AnyFourteenBytesDecoded : Prop :=
  ∀ (s : State) (B : Nat → Byte), s.pos = 0#4 →
    ∃ t r, runCommands (feeds ((List.range 14).map B)) s = .next t ∧
      t.responses = s.responses ++ (List.replicate 13 (.feed false) ++ [.feed r]) ∧
      (r = true ↔ B 0 = 0x02#8 ∧ B 13 = 0x03#8 ∧ checksumOfBytes B = xor5 (idOfBytes B)) ∧
      (B 0 = 0x02#8 → t.pos = 0#4 ∧ t.idAcc = idOfBytes B ∧ t.ckRx = checksumOfBytes B ∧ t.flag = r)

/-- 40_feed.md R110, third sentence (the spec's inference): from `pos = 0`, `Frame(v)`, in upper or lower case or a mixture
(R72), returns true exactly once, on its last byte, and leaves `id_acc = v`, ready. -/
def Obligations.ValidFrameDecodes : Prop :=
  ∀ (s : State) (upper : Nat → Bool) (v : Ident), s.pos = 0#4 →
    runCommands (feeds (frame upper v)) s =
      .next { s with pos := 0#4, idAcc := v, ckRx := xor5 v, flag := true, frameOk := true,
                     responses := s.responses ++ (List.replicate 13 (.feed false) ++ [.feed true]) }

/-- 40_feed.md R112 (the spec's inference): from `pos = 0`, noise with no 0x02 never prevents the frame after it from
decoding, and no noise byte returns true. -/
def Obligations.NoiseBeforeFrameIsHarmless : Prop :=
  ∀ (s : State) (N : List Byte) (upper : Nat → Bool) (v : Ident), s.pos = 0#4 → (∀ b ∈ N, b ≠ 0x02#8) →
    ∃ t, runCommands (feeds (N ++ frame upper v)) s = .next t ∧ t.pos = 0#4 ∧ t.idAcc = v ∧ t.flag = true ∧
      t.responses = s.responses ++ (List.replicate (N.length + 13) (.feed false) ++ [.feed true])

/-- 40_feed.md R113 (the spec's inference): after any END, accepted or dropped, and with 0x02 for its byte too, a frame that
follows at once is decoded. -/
def Obligations.FrameAfterAnyEndDecodes : Prop :=
  ∀ (s : State) (b : Byte) (upper : Nat → Bool) (v : Ident), s.pos = 13#4 →
    ∃ m t, exec (.feed b) s = .next m ∧ runCommands (feeds (frame upper v)) m = .next t ∧ t.pos = 0#4 ∧ t.idAcc = v ∧
      t.flag = true ∧ t.responses = m.responses ++ (List.replicate 13 (.feed false) ++ [.feed true])

/-- 40_feed.md R114 (the spec's inference): two frames back to back return true on bytes 13 and 27 and on no other, and no
accumulator state leaks from one to the other. -/
def Obligations.BackToBackFrames : Prop :=
  ∀ (s : State) (upper upper' : Nat → Bool) (v v' : Ident), s.pos = 0#4 →
    ∃ m t, runCommands (feeds (frame upper v)) s = .next m ∧ m.idAcc = v ∧
      runCommands (feeds (frame upper v ++ frame upper' v')) s = .next t ∧ t.idAcc = v' ∧ t.ckRx = xor5 v' ∧
      t.responses = s.responses ++ (List.replicate 13 (.feed false) ++ [.feed true] ++
        List.replicate 13 (.feed false) ++ [.feed true])

/-- 70_reset_and_hazards.md R189: every command list runs to its end, and its observation has one response for each TAKE and
one for each FEED. -/
def Obligations.EveryCommandListRunsToItsEnd : Prop :=
  ∀ (is : List Instr) (s : State), is.all isCommand = true →
    ∃ t rs, runCommands is s = .next t ∧ t.responses = s.responses ++ rs ∧
      rs.length = (is.map responseCount).sum

/-- 60_exceptions.md R170, with several blocks taken for a list of States (log 15, DEDUCED: the model's reading): a step of one
block leaves every other as it was, and is its own step. This constrains `stepInstance` only, and would hold whatever `step`
did. -/
def Obligations.InstancesShareNothing : Prop :=
  ∀ (blocks : List State) (k : Nat),
    (∀ j, j ≠ k → (stepInstance k blocks)[j]? = blocks[j]?) ∧
    ∀ s t, blocks[k]? = some s → step s = .next t → (stepInstance k blocks)[k]? = some t
end

