-- ==== Sys2Proof/Laws/Decode.lean ====
section
/-! SUPPORT. The small lemmas of the two decoders: the parts of a word are the parts it was made of, and the arm at each
position. -/

namespace Sys2Proof

/-- Bit i of a command word (30_encoding.md R73). -/
theorem commandWord_bit (t v : Bool) (d : Byte) (i : Nat) :
    (commandWord t v d).getLsbD i = if i < 8 then d.getLsbD i else if i = 8 then v else if i = 9 then t else false := by
  have h : (commandWord t v d).getLsbD i =
      if i < 9 then (BitVec.ofBool v ++ d).getLsbD i else (BitVec.ofBool t).getLsbD (i - 9) :=
    BitVec.getLsbD_append
  rw [h, BitVec.getLsbD_append]
  simp only [BitVec.getLsbD_ofBool]
  split <;> split <;> grind

/-- Bit i of an arm word (R77). -/
theorem armWord_bit (p : Pos) (b : Byte) (i : Nat) :
    (armWord p b).getLsbD i = if i < 8 then b.getLsbD i else p.getLsbD (i - 8) :=
  BitVec.getLsbD_append

theorem commandWord_take (t v : Bool) (d : Byte) : (commandWord t v d).getLsbD 9 = t := by
  rw [commandWord_bit]
  rfl

theorem commandWord_valid (t v : Bool) (d : Byte) : (commandWord t v d).getLsbD 8 = v := by
  rw [commandWord_bit]
  rfl

@[simp] theorem commandWord_data (t v : Bool) (d : Byte) : (commandWord t v d).extractLsb' 0 8 = d := by
  ext i hi
  simp only [BitVec.getElem_extractLsb', commandWord_bit]
  simp [hi]

@[simp] theorem armWord_pos (p : Pos) (b : Byte) : (armWord p b).extractLsb' 8 4 = p := by
  ext i hi
  simp only [BitVec.getElem_extractLsb', armWord_bit]
  simp [← BitVec.getLsbD_eq_getElem]

@[simp] theorem armWord_byte (p : Pos) (b : Byte) : (armWord p b).extractLsb' 0 8 = b := by
  ext i hi
  simp only [BitVec.getElem_extractLsb', armWord_bit]
  simp [hi]

/-- A command word is rebuilt from its fields. -/
theorem commandWord_fields (w : CmdWord) :
    commandWord (w.getLsbD 9) (w.getLsbD 8) (w.extractLsb' 0 8) = w := by
  apply BitVec.eq_of_getLsbD_eq
  intro i hi
  simp only [commandWord_bit, BitVec.getLsbD_extractLsb']
  grind

/-- An arm word is rebuilt from its fields. -/
theorem armWord_fields (w : ArmWord) : armWord (w.extractLsb' 8 4) (w.extractLsb' 0 8) = w := by
  apply BitVec.eq_of_getLsbD_eq
  intro i hi
  simp only [armWord_bit, BitVec.getLsbD_extractLsb']
  grind

/-- The command decode, read from the fields (R74). -/
theorem decodeCommand_fields (t v : Bool) (d : Byte) :
    decodeCommand (commandWord t v d) =
      match t, v with
      | false, false => .nop d
      | false, true => .feed d
      | true, false => .take d
      | true, true => .takeFeed d := by
  cases t <;> cases v <;> simp only [decodeCommand, commandWord_take, commandWord_valid, commandWord_data]

/-- The arm decode, read from the fields (R77). -/
theorem decodeArmWord_fields (p : Pos) (b : Byte) : decodeArmWord (armWord p b) = armInstr p b := by
  simp [decodeArmWord]

@[simp] theorem selectArm_start : selectArm 0#4 Config.startMarker = .idleStart := rfl

theorem selectArm_skip (b : Byte) (h : b ≠ Config.startMarker) : selectArm 0#4 b = .idleSkip := by
  simp [selectArm, h]

@[simp] theorem selectArm_1 (b : Byte) : selectArm 1#4 b = .nib1 := rfl
@[simp] theorem selectArm_2 (b : Byte) : selectArm 2#4 b = .nib2 := rfl
@[simp] theorem selectArm_3 (b : Byte) : selectArm 3#4 b = .nib3 := rfl
@[simp] theorem selectArm_4 (b : Byte) : selectArm 4#4 b = .nib4 := rfl
@[simp] theorem selectArm_5 (b : Byte) : selectArm 5#4 b = .nib5 := rfl
@[simp] theorem selectArm_6 (b : Byte) : selectArm 6#4 b = .nib6 := rfl
@[simp] theorem selectArm_7 (b : Byte) : selectArm 7#4 b = .nib7 := rfl
@[simp] theorem selectArm_8 (b : Byte) : selectArm 8#4 b = .nib8 := rfl
@[simp] theorem selectArm_9 (b : Byte) : selectArm 9#4 b = .nib9 := rfl
@[simp] theorem selectArm_10 (b : Byte) : selectArm 10#4 b = .nib10 := rfl
@[simp] theorem selectArm_11 (b : Byte) : selectArm 11#4 b = .ckHi := rfl
@[simp] theorem selectArm_12 (b : Byte) : selectArm 12#4 b = .ckLo := rfl
@[simp] theorem selectArm_13 (b : Byte) : selectArm 13#4 b = .endMark := rfl
@[simp] theorem selectArm_14 (b : Byte) : selectArm 14#4 b = .recover := rfl
@[simp] theorem selectArm_15 (b : Byte) : selectArm 15#4 b = .recover := rfl

/-- Every position is one of the sixteen: the case split that proofs over FEED start from. -/
theorem pos_cases (p : Pos) :
    p = 0#4 ∨ p = 1#4 ∨ p = 2#4 ∨ p = 3#4 ∨ p = 4#4 ∨ p = 5#4 ∨ p = 6#4 ∨ p = 7#4 ∨ p = 8#4 ∨ p = 9#4 ∨ p = 10#4 ∨
      p = 11#4 ∨ p = 12#4 ∨ p = 13#4 ∨ p = 14#4 ∨ p = 15#4 := by
  revert p
  decide

end Sys2Proof
end

