-- ==== Sys2Proof/Laws/State.lean ====
section
/-! SUPPORT. One lemma for each field of State under each update. -/

namespace Sys2Proof.Machine

variable (s : State)

@[simp] theorem State.setPos_pos (p : Pos) : (s.setPos p).pos = p := rfl
@[simp] theorem State.setPos_idAcc (p : Pos) : (s.setPos p).idAcc = s.idAcc := rfl
@[simp] theorem State.setPos_ckRx (p : Pos) : (s.setPos p).ckRx = s.ckRx := rfl
@[simp] theorem State.setPos_flag (p : Pos) : (s.setPos p).flag = s.flag := rfl
@[simp] theorem State.setPos_frameOk (p : Pos) : (s.setPos p).frameOk = s.frameOk := rfl
@[simp] theorem State.setPos_pending (p : Pos) : (s.setPos p).pending = s.pending := rfl
@[simp] theorem State.setPos_responses (p : Pos) : (s.setPos p).responses = s.responses := rfl

@[simp] theorem State.setIdAcc_pos (v : Ident) : (s.setIdAcc v).pos = s.pos := rfl
@[simp] theorem State.setIdAcc_idAcc (v : Ident) : (s.setIdAcc v).idAcc = v := rfl
@[simp] theorem State.setIdAcc_ckRx (v : Ident) : (s.setIdAcc v).ckRx = s.ckRx := rfl
@[simp] theorem State.setIdAcc_flag (v : Ident) : (s.setIdAcc v).flag = s.flag := rfl
@[simp] theorem State.setIdAcc_frameOk (v : Ident) : (s.setIdAcc v).frameOk = s.frameOk := rfl
@[simp] theorem State.setIdAcc_pending (v : Ident) : (s.setIdAcc v).pending = s.pending := rfl
@[simp] theorem State.setIdAcc_responses (v : Ident) : (s.setIdAcc v).responses = s.responses := rfl

@[simp] theorem State.setCkRx_pos (c : Checksum) : (s.setCkRx c).pos = s.pos := rfl
@[simp] theorem State.setCkRx_idAcc (c : Checksum) : (s.setCkRx c).idAcc = s.idAcc := rfl
@[simp] theorem State.setCkRx_ckRx (c : Checksum) : (s.setCkRx c).ckRx = c := rfl
@[simp] theorem State.setCkRx_flag (c : Checksum) : (s.setCkRx c).flag = s.flag := rfl
@[simp] theorem State.setCkRx_frameOk (c : Checksum) : (s.setCkRx c).frameOk = s.frameOk := rfl
@[simp] theorem State.setCkRx_pending (c : Checksum) : (s.setCkRx c).pending = s.pending := rfl
@[simp] theorem State.setCkRx_responses (c : Checksum) : (s.setCkRx c).responses = s.responses := rfl

@[simp] theorem State.setFlag_pos (f : Bool) : (s.setFlag f).pos = s.pos := rfl
@[simp] theorem State.setFlag_idAcc (f : Bool) : (s.setFlag f).idAcc = s.idAcc := rfl
@[simp] theorem State.setFlag_ckRx (f : Bool) : (s.setFlag f).ckRx = s.ckRx := rfl
@[simp] theorem State.setFlag_flag (f : Bool) : (s.setFlag f).flag = f := rfl
@[simp] theorem State.setFlag_frameOk (f : Bool) : (s.setFlag f).frameOk = s.frameOk := rfl
@[simp] theorem State.setFlag_pending (f : Bool) : (s.setFlag f).pending = s.pending := rfl
@[simp] theorem State.setFlag_responses (f : Bool) : (s.setFlag f).responses = s.responses := rfl

@[simp] theorem State.setFrameOk_pos (f : Bool) : (s.setFrameOk f).pos = s.pos := rfl
@[simp] theorem State.setFrameOk_idAcc (f : Bool) : (s.setFrameOk f).idAcc = s.idAcc := rfl
@[simp] theorem State.setFrameOk_ckRx (f : Bool) : (s.setFrameOk f).ckRx = s.ckRx := rfl
@[simp] theorem State.setFrameOk_flag (f : Bool) : (s.setFrameOk f).flag = s.flag := rfl
@[simp] theorem State.setFrameOk_frameOk (f : Bool) : (s.setFrameOk f).frameOk = f := rfl
@[simp] theorem State.setFrameOk_pending (f : Bool) : (s.setFrameOk f).pending = s.pending := rfl
@[simp] theorem State.setFrameOk_responses (f : Bool) : (s.setFrameOk f).responses = s.responses := rfl

@[simp] theorem State.setPending_pos (l : List EdgeInput) : (s.setPending l).pos = s.pos := rfl
@[simp] theorem State.setPending_idAcc (l : List EdgeInput) : (s.setPending l).idAcc = s.idAcc := rfl
@[simp] theorem State.setPending_ckRx (l : List EdgeInput) : (s.setPending l).ckRx = s.ckRx := rfl
@[simp] theorem State.setPending_flag (l : List EdgeInput) : (s.setPending l).flag = s.flag := rfl
@[simp] theorem State.setPending_frameOk (l : List EdgeInput) : (s.setPending l).frameOk = s.frameOk := rfl
@[simp] theorem State.setPending_pending (l : List EdgeInput) : (s.setPending l).pending = l := rfl
@[simp] theorem State.setPending_responses (l : List EdgeInput) : (s.setPending l).responses = s.responses := rfl

@[simp] theorem State.respond_pos (r : Response) : (s.respond r).pos = s.pos := rfl
@[simp] theorem State.respond_idAcc (r : Response) : (s.respond r).idAcc = s.idAcc := rfl
@[simp] theorem State.respond_ckRx (r : Response) : (s.respond r).ckRx = s.ckRx := rfl
@[simp] theorem State.respond_flag (r : Response) : (s.respond r).flag = s.flag := rfl
@[simp] theorem State.respond_frameOk (r : Response) : (s.respond r).frameOk = s.frameOk := rfl
@[simp] theorem State.respond_pending (r : Response) : (s.respond r).pending = s.pending := rfl
@[simp] theorem State.respond_responses (r : Response) : (s.respond r).responses = s.responses ++ [r] := rfl

end Sys2Proof.Machine
end

