-- ==== Sys2Proof/Laws/Ops.lean ====
section
/-! SUPPORT. For each shared operation, once, everything it does; proofs cite these instead of unfolding it. -/

namespace Sys2Proof.Machine

/-! ## The arms of FEED, each as one record -/

variable (s : State) (b : Byte)

/-- What every FEED but an accepting END leaves: no ready identifier and the result false. -/
def State.fedFalse (s : State) : State :=
  { s with flag := false, frameOk := false, responses := s.responses ++ [.feed false] }

@[simp] theorem State.fedFalse_pos : s.fedFalse.pos = s.pos := rfl
@[simp] theorem State.fedFalse_idAcc : s.fedFalse.idAcc = s.idAcc := rfl
@[simp] theorem State.fedFalse_ckRx : s.fedFalse.ckRx = s.ckRx := rfl
@[simp] theorem State.fedFalse_flag : s.fedFalse.flag = false := rfl
@[simp] theorem State.fedFalse_frameOk : s.fedFalse.frameOk = false := rfl
@[simp] theorem State.fedFalse_pending : s.fedFalse.pending = s.pending := rfl
@[simp] theorem State.fedFalse_responses : s.fedFalse.responses = s.responses ++ [.feed false] := rfl

theorem feedWithArm_idleStart :
    feedWithArm .idleStart b s = { s.fedFalse with idAcc := 0#40, ckRx := 0x00#8, pos := 1#4 } := rfl

theorem feedWithArm_idleSkip : feedWithArm .idleSkip b s = s.fedFalse := rfl

/-- The arm of NIB(p) (p from 1 to 10). -/
def nibArm : Nat → Arm
  | 1 => .nib1
  | 2 => .nib2
  | 3 => .nib3
  | 4 => .nib4
  | 5 => .nib5
  | 6 => .nib6
  | 7 => .nib7
  | 8 => .nib8
  | 9 => .nib9
  | 10 => .nib10
  | _ => .recover

theorem nat_one_to_ten {p : Nat} (h1 : 1 ≤ p) (h10 : p ≤ 10) :
    p = 1 ∨ p = 2 ∨ p = 3 ∨ p = 4 ∨ p = 5 ∨ p = 6 ∨ p = 7 ∨ p = 8 ∨ p = 9 ∨ p = 10 := by
  omega

theorem selectArm_nib {p : Nat} (h1 : 1 ≤ p) (h10 : p ≤ 10) : selectArm (BitVec.ofNat 4 p) b = nibArm p := by
  obtain h | h | h | h | h | h | h | h | h | h := nat_one_to_ten h1 h10 <;> subst h <;> rfl

theorem feedWithArm_nib {p : Nat} (h1 : 1 ≤ p) (h10 : p ≤ 10) :
    feedWithArm (nibArm p) b s =
      { s.fedFalse with idAcc := s.idAcc ||| contribution p b, pos := BitVec.ofNat 4 (p + 1) } := by
  obtain h | h | h | h | h | h | h | h | h | h := nat_one_to_ten h1 h10 <;> subst h <;> rfl

theorem feedWithArm_ckHi :
    feedWithArm .ckHi b s = { s.fedFalse with ckRx := checksumHigh b, pos := 12#4 } := rfl

theorem feedWithArm_ckLo :
    feedWithArm .ckLo b s = { s.fedFalse with ckRx := s.ckRx ||| checksumLow b, pos := 13#4 } := rfl

theorem feedWithArm_endMark :
    feedWithArm .endMark b s =
      { s with pos := 0#4, flag := frameAccepted b s.ckRx s.idAcc, frameOk := frameAccepted b s.ckRx s.idAcc,
               responses := s.responses ++ [.feed (frameAccepted b s.ckRx s.idAcc)] } := by
  cases h : frameAccepted b s.ckRx s.idAcc <;>
    simp [feedWithArm, armEffect, armEnd, finishFeed, State.setFlag, State.setPos, State.respond, State.setFrameOk, h]

theorem feedWithArm_recover : feedWithArm .recover b s = { s.fedFalse with pos := 0#4 } := rfl

/-- The validation gate in words (40_feed.md R107). -/
theorem frameAccepted_iff (b : Byte) (ck : Checksum) (v : Ident) :
    frameAccepted b ck v = true ↔ b = 0x03#8 ∧ ck = xor5 v := by
  simp [frameAccepted, Config.endMarker]

/-! ## FEED at each position -/

theorem feedStep_start {s : State} (h : s.pos = 0#4) :
    feedStep 0x02#8 s = { s.fedFalse with idAcc := 0#40, ckRx := 0x00#8, pos := 1#4 } := by
  simp only [feedStep, h]
  rfl

theorem feedStep_skip {s : State} {b : Byte} (h : s.pos = 0#4) (hb : b ≠ 0x02#8) : feedStep b s = s.fedFalse := by
  have ha : selectArm s.pos b = .idleSkip := by rw [h]; exact selectArm_skip b hb
  rw [feedStep, ha, feedWithArm_idleSkip]

theorem feedStep_nib {s : State} (b : Byte) {p : Nat} (h1 : 1 ≤ p) (h10 : p ≤ 10) (h : s.pos = BitVec.ofNat 4 p) :
    feedStep b s = { s.fedFalse with idAcc := s.idAcc ||| contribution p b, pos := BitVec.ofNat 4 (p + 1) } := by
  rw [feedStep, h, selectArm_nib b h1 h10, feedWithArm_nib s b h1 h10]

theorem feedStep_ckHi {s : State} (b : Byte) (h : s.pos = 11#4) :
    feedStep b s = { s.fedFalse with ckRx := checksumHigh b, pos := 12#4 } := by
  simp only [feedStep, h]
  rfl

theorem feedStep_ckLo {s : State} (b : Byte) (h : s.pos = 12#4) :
    feedStep b s = { s.fedFalse with ckRx := s.ckRx ||| checksumLow b, pos := 13#4 } := by
  simp only [feedStep, h]
  rfl

theorem feedStep_end {s : State} (b : Byte) (h : s.pos = 13#4) :
    feedStep b s =
      { s with pos := 0#4, flag := frameAccepted b s.ckRx s.idAcc, frameOk := frameAccepted b s.ckRx s.idAcc,
               responses := s.responses ++ [.feed (frameAccepted b s.ckRx s.idAcc)] } := by
  rw [feedStep, h, selectArm_13, feedWithArm_endMark]

theorem feedStep_recover {s : State} (b : Byte) (h : s.pos = 14#4 ∨ s.pos = 15#4) :
    feedStep b s = { s.fedFalse with pos := 0#4 } := by
  obtain h | h := h <;> (simp only [feedStep, h]; rfl)

/-- Everything a FEED can do, by position and byte (30_encoding.md R77). -/
theorem feedStep_cases :
    (s.pos = 0#4 ∧ b = 0x02#8 ∧ feedStep b s = { s.fedFalse with idAcc := 0#40, ckRx := 0x00#8, pos := 1#4 }) ∨
    (s.pos = 0#4 ∧ b ≠ 0x02#8 ∧ feedStep b s = s.fedFalse) ∨
    (∃ p, 1 ≤ p ∧ p ≤ 10 ∧ s.pos = BitVec.ofNat 4 p ∧
      feedStep b s = { s.fedFalse with idAcc := s.idAcc ||| contribution p b, pos := BitVec.ofNat 4 (p + 1) }) ∨
    (s.pos = 11#4 ∧ feedStep b s = { s.fedFalse with ckRx := checksumHigh b, pos := 12#4 }) ∨
    (s.pos = 12#4 ∧ feedStep b s = { s.fedFalse with ckRx := s.ckRx ||| checksumLow b, pos := 13#4 }) ∨
    (s.pos = 13#4 ∧ feedStep b s =
      { s with pos := 0#4, flag := frameAccepted b s.ckRx s.idAcc, frameOk := frameAccepted b s.ckRx s.idAcc,
               responses := s.responses ++ [.feed (frameAccepted b s.ckRx s.idAcc)] }) ∨
    ((s.pos = 14#4 ∨ s.pos = 15#4) ∧ feedStep b s = { s.fedFalse with pos := 0#4 }) := by
  obtain h | h | h | h | h | h | h | h | h | h | h | h | h | h | h | h := pos_cases s.pos
  · by_cases hb : b = 0x02#8
    · subst hb
      exact .inl ⟨h, rfl, feedStep_start h⟩
    · exact .inr (.inl ⟨h, hb, feedStep_skip h hb⟩)
  · exact .inr (.inr (.inl ⟨1, by decide, by decide, h, feedStep_nib b (by decide) (by decide) h⟩))
  · exact .inr (.inr (.inl ⟨2, by decide, by decide, h, feedStep_nib b (by decide) (by decide) h⟩))
  · exact .inr (.inr (.inl ⟨3, by decide, by decide, h, feedStep_nib b (by decide) (by decide) h⟩))
  · exact .inr (.inr (.inl ⟨4, by decide, by decide, h, feedStep_nib b (by decide) (by decide) h⟩))
  · exact .inr (.inr (.inl ⟨5, by decide, by decide, h, feedStep_nib b (by decide) (by decide) h⟩))
  · exact .inr (.inr (.inl ⟨6, by decide, by decide, h, feedStep_nib b (by decide) (by decide) h⟩))
  · exact .inr (.inr (.inl ⟨7, by decide, by decide, h, feedStep_nib b (by decide) (by decide) h⟩))
  · exact .inr (.inr (.inl ⟨8, by decide, by decide, h, feedStep_nib b (by decide) (by decide) h⟩))
  · exact .inr (.inr (.inl ⟨9, by decide, by decide, h, feedStep_nib b (by decide) (by decide) h⟩))
  · exact .inr (.inr (.inl ⟨10, by decide, by decide, h, feedStep_nib b (by decide) (by decide) h⟩))
  · exact .inr (.inr (.inr (.inl ⟨h, feedStep_ckHi b h⟩)))
  · exact .inr (.inr (.inr (.inr (.inl ⟨h, feedStep_ckLo b h⟩))))
  · exact .inr (.inr (.inr (.inr (.inr (.inl ⟨h, feedStep_end b h⟩)))))
  · exact .inr (.inr (.inr (.inr (.inr (.inr ⟨.inl h, feedStep_recover b (.inl h)⟩)))))
  · exact .inr (.inr (.inr (.inr (.inr (.inr ⟨.inr h, feedStep_recover b (.inr h)⟩)))))

/-! ## What every FEED does -/

@[simp] theorem feedStep_pending : (feedStep b s).pending = s.pending := by
  obtain ⟨-, -, h⟩ | ⟨-, -, h⟩ | ⟨_, -, -, -, h⟩ | ⟨-, h⟩ | ⟨-, h⟩ | ⟨-, h⟩ | ⟨-, h⟩ := feedStep_cases s b <;> simp [h]

@[simp] theorem feedStep_frameOk : (feedStep b s).frameOk = (feedStep b s).flag := by
  obtain ⟨-, -, h⟩ | ⟨-, -, h⟩ | ⟨_, -, -, -, h⟩ | ⟨-, h⟩ | ⟨-, h⟩ | ⟨-, h⟩ | ⟨-, h⟩ := feedStep_cases s b <;> simp [h]

@[simp] theorem feedStep_responses :
    (feedStep b s).responses = s.responses ++ [.feed (feedStep b s).flag] := by
  obtain ⟨-, -, h⟩ | ⟨-, -, h⟩ | ⟨_, -, -, -, h⟩ | ⟨-, h⟩ | ⟨-, h⟩ | ⟨-, h⟩ | ⟨-, h⟩ := feedStep_cases s b <;> simp [h]

theorem feedStep_flag_iff :
    (feedStep b s).flag = true ↔ s.pos = 13#4 ∧ b = 0x03#8 ∧ s.ckRx = xor5 s.idAcc := by
  obtain ⟨hp, -, h⟩ | ⟨hp, -, h⟩ | ⟨p, h1, h2, hp, h⟩ | ⟨hp, h⟩ | ⟨hp, h⟩ | ⟨hp, h⟩ | ⟨hp, h⟩ := feedStep_cases s b
  · simp [h, hp]
  · simp [h, hp]
  · have : BitVec.ofNat 4 p ≠ 13#4 := by
      obtain e | e | e | e | e | e | e | e | e | e := nat_one_to_ten h1 h2 <;> subst e <;> decide
    simp [h, hp, this]
  · simp [h, hp]
  · simp [h, hp]
  · simp [h, hp, frameAccepted_iff]
  · obtain hp | hp := hp <;> simp [h, hp]

/-! ## TAKE, NOP, reset -/

theorem takeStep_eq :
    takeStep s = { s with flag := false, frameOk := false, responses := s.responses ++ [.take s.takeResponse] } := rfl

@[simp] theorem takeStep_pos : (takeStep s).pos = s.pos := rfl
@[simp] theorem takeStep_idAcc : (takeStep s).idAcc = s.idAcc := rfl
@[simp] theorem takeStep_ckRx : (takeStep s).ckRx = s.ckRx := rfl
@[simp] theorem takeStep_flag : (takeStep s).flag = false := rfl
@[simp] theorem takeStep_frameOk : (takeStep s).frameOk = false := rfl
@[simp] theorem takeStep_pending : (takeStep s).pending = s.pending := rfl
@[simp] theorem takeStep_responses : (takeStep s).responses = s.responses ++ [.take s.takeResponse] := rfl

theorem takeResponse_ready {s : State} (h : s.flag = true) : s.takeResponse = some s.idAcc := by
  simp [State.takeResponse, h]

theorem takeResponse_none {s : State} (h : s.flag = false) : s.takeResponse = none := by
  simp [State.takeResponse, h]

@[simp] theorem nopStep_pos : (nopStep s).pos = s.pos := rfl
@[simp] theorem nopStep_idAcc : (nopStep s).idAcc = s.idAcc := rfl
@[simp] theorem nopStep_ckRx : (nopStep s).ckRx = s.ckRx := rfl
@[simp] theorem nopStep_flag : (nopStep s).flag = s.flag := rfl
@[simp] theorem nopStep_frameOk : (nopStep s).frameOk = false := rfl
@[simp] theorem nopStep_pending : (nopStep s).pending = s.pending := rfl
@[simp] theorem nopStep_responses : (nopStep s).responses = s.responses := rfl

@[simp] theorem resetStep_pos : (resetStep s).pos = 0#4 := rfl
@[simp] theorem resetStep_idAcc : (resetStep s).idAcc = 0#40 := rfl
@[simp] theorem resetStep_ckRx : (resetStep s).ckRx = 0x00#8 := rfl
@[simp] theorem resetStep_flag : (resetStep s).flag = false := rfl
@[simp] theorem resetStep_frameOk : (resetStep s).frameOk = false := rfl
@[simp] theorem resetStep_pending : (resetStep s).pending = s.pending := rfl
@[simp] theorem resetStep_responses : (resetStep s).responses = s.responses := rfl

/-! ## The input list -/

theorem nextEdge_of_pending {e : EdgeInput} {rest : List EdgeInput} (h : s.pending = e :: rest) :
    s.nextEdge = e := by
  simp [State.nextEdge, h]

theorem takeEdge_of_pending {e : EdgeInput} {rest : List EdgeInput} (h : s.pending = e :: rest) :
    s.takeEdge = { s with pending := rest } := by
  simp [State.takeEdge, State.setPending, h]

@[simp] theorem takeEdge_pos : s.takeEdge.pos = s.pos := rfl
@[simp] theorem takeEdge_idAcc : s.takeEdge.idAcc = s.idAcc := rfl
@[simp] theorem takeEdge_ckRx : s.takeEdge.ckRx = s.ckRx := rfl
@[simp] theorem takeEdge_flag : s.takeEdge.flag = s.flag := rfl
@[simp] theorem takeEdge_frameOk : s.takeEdge.frameOk = s.frameOk := rfl
@[simp] theorem takeEdge_pending : s.takeEdge.pending = s.pending.tail := rfl
@[simp] theorem takeEdge_responses : s.takeEdge.responses = s.responses := rfl

end Sys2Proof.Machine
end

