-- ==== Sys2Proof/Laws/Exec.lean ====
section
/-! SUPPORT. What exec and step can do, once; runs of commands, taken apart. -/

namespace Sys2Proof.Machine

variable (s : State)

@[simp] theorem exec_nop (d : Byte) : exec (.nop d) s = .next (nopStep s) := rfl
@[simp] theorem exec_feed (b : Byte) : exec (.feed b) s = .next (feedStep b s) := rfl
@[simp] theorem exec_take (d : Byte) : exec (.take d) s = .next (takeStep s) := rfl
@[simp] theorem exec_takeFeed (b : Byte) : exec (.takeFeed b) s = .next (feedStep b (takeStep s)) := rfl

/-- An arm row where it is the selected one is FEED. -/
theorem feedByRow_selected {s : State} {p : Pos} {a : Arm} {b : Byte} (hp : s.pos = p) (ha : selectArm s.pos b = a) :
    feedByRow p a b s = .next (feedStep b s) := by
  simp [feedByRow, hp, ← ha, feedStep]

/-- Everything an arm row can do. -/
theorem feedByRow_cases {s : State} (p : Pos) (a : Arm) (b : Byte) :
    (s.pos = p ∧ selectArm s.pos b = a ∧ feedByRow p a b s = .next (feedStep b s)) ∨
    (¬ (s.pos = p ∧ selectArm s.pos b = a) ∧ feedByRow p a b s = .refused .armNotSelected) := by
  by_cases h : s.pos = p ∧ selectArm s.pos b = a
  · exact .inl ⟨h.1, h.2, feedByRow_selected h.1 h.2⟩
  · exact .inr ⟨h, by simp [feedByRow, h]⟩

/-- The state change of the command with `take` = `t`, `in_valid` = `v` and data `d` (30_encoding.md R74). -/
def commandEffect (t v : Bool) (d : Byte) (s : State) : State :=
  match t, v with
  | false, false => nopStep s
  | false, true => feedStep d s
  | true, false => takeStep s
  | true, true => feedStep d (takeStep s)

@[simp] theorem commandEffect_nop (d : Byte) : commandEffect false false d s = nopStep s := rfl
@[simp] theorem commandEffect_feed (b : Byte) : commandEffect false true b s = feedStep b s := rfl
@[simp] theorem commandEffect_take (d : Byte) : commandEffect true false d s = takeStep s := rfl
@[simp] theorem commandEffect_takeFeed (b : Byte) : commandEffect true true b s = feedStep b (takeStep s) := rfl

/-- The four commands, read from the fields of the word. -/
theorem exec_command (t v : Bool) (d : Byte) :
    exec (decodeCommand (commandWord t v d)) s = .next (commandEffect t v d s) := by
  rw [decodeCommand_fields]
  cases t <;> cases v <;> rfl

theorem exec_command_next {t v : Bool} {d : Byte} {s s' : State}
    (h : exec (decodeCommand (commandWord t v d)) s = .next s') : s' = commandEffect t v d s := by
  rw [exec_command] at h
  exact (Host.Outcome.next.inj h).symm

/-- Everything a step can do: reset, or one of the four commands, on the state with the edge's inputs taken. -/
theorem step_cases {s t : State} (h : step s = .next t) :
    t = resetStep s.takeEdge ∨ t = nopStep s.takeEdge ∨ t = takeStep s.takeEdge ∨
      (∃ b, t = feedStep b s.takeEdge) ∨ ∃ b, t = feedStep b (takeStep s.takeEdge) := by
  unfold step clockEdge EdgeInput.cmd at h
  rw [exec_command] at h
  split at h
  · exact .inl (Host.Outcome.next.inj h).symm
  · have h := (Host.Outcome.next.inj h).symm
    revert h
    cases s.nextEdge.take <;> cases s.nextEdge.inValid <;> intro h
    · exact .inr (.inl h)
    · exact .inr (.inr (.inr (.inl ⟨_, h⟩)))
    · exact .inr (.inr (.inl h))
    · exact .inr (.inr (.inr (.inr ⟨_, h⟩)))

/-! ## Runs -/

@[simp] theorem accepts_feed (f : Bool) : (Response.feed f).accepts = f := rfl
@[simp] theorem accepts_take (o : Option Ident) : (Response.take o).accepts = false := rfl
@[simp] theorem surfaces_feed (f : Bool) : (Response.feed f).surfaces = false := rfl
@[simp] theorem surfaces_take (o : Option Ident) : (Response.take o).surfaces = o.isSome := by
  cases o <;> rfl

/-- A command is one of the four (30_encoding.md R74). -/
theorem command_cases {i : Instr} (h : isCommand i = true) :
    (∃ d, i = .nop d) ∨ (∃ b, i = .feed b) ∨ (∃ d, i = .take d) ∨ ∃ b, i = .takeFeed b := by
  cases i <;> first | (simp; done) | simp [isCommand, encode, InstrWord.format] at h

@[simp] theorem runCommands_nil : runCommands [] s = .next s := rfl

theorem runCommands_cons {i : Instr} {is : List Instr} {s t : State} (h : exec i s = .next t) :
    runCommands (i :: is) s = runCommands is t := by
  simp [runCommands, h]

theorem runCommands_append {is js : List Instr} {s t : State} (h : runCommands is s = .next t) :
    runCommands (is ++ js) s = runCommands js t := by
  induction is generalizing s with
  | nil => simp_all [runCommands]
  | cons i is ih =>
    simp only [List.cons_append, runCommands] at h ⊢
    split at h
    · next u hu => exact ih h
    · cases h
    · cases h

@[simp] theorem feeds_nil : feeds [] = [] := rfl
@[simp] theorem feeds_cons (b : Byte) (bs : List Byte) : feeds (b :: bs) = .feed b :: feeds bs := rfl
@[simp] theorem feeds_append (bs cs : List Byte) : feeds (bs ++ cs) = feeds bs ++ feeds cs := by
  simp [feeds]

theorem runCommands_feed (b : Byte) (is : List Instr) :
    runCommands (.feed b :: is) s = runCommands is (feedStep b s) := rfl

theorem runCommands_nop (d : Byte) (is : List Instr) :
    runCommands (.nop d :: is) s = runCommands is (nopStep s) := rfl

theorem runCommands_take (d : Byte) (is : List Instr) :
    runCommands (.take d :: is) s = runCommands is (takeStep s) := rfl

end Sys2Proof.Machine
end

