-- ==== Sys2Proof/Laws/Frame.lean ====
section
/-! SUPPORT. What the characters of a frame spell, put together, and the bytes of a frame not yet complete. -/

namespace Sys2Proof.Machine

/-- The ten contributions ORed are the ten nibbles side by side (30_encoding.md R83, 40_feed.md R110). -/
theorem idOfBytes_eq_or (B : Nat → Byte) :
    idOfBytes B =
      contribution 1 (B 1) ||| contribution 2 (B 2) ||| contribution 3 (B 3) ||| contribution 4 (B 4) |||
        contribution 5 (B 5) ||| contribution 6 (B 6) ||| contribution 7 (B 7) ||| contribution 8 (B 8) |||
        contribution 9 (B 9) ||| contribution 10 (B 10) := by
  unfold idOfBytes contribution nibShift
  generalize hexNib (B 1) = n1
  generalize hexNib (B 2) = n2
  generalize hexNib (B 3) = n3
  generalize hexNib (B 4) = n4
  generalize hexNib (B 5) = n5
  generalize hexNib (B 6) = n6
  generalize hexNib (B 7) = n7
  generalize hexNib (B 8) = n8
  generalize hexNib (B 9) = n9
  generalize hexNib (B 10) = n10
  apply BitVec.eq_of_getLsbD_eq
  intro i hi
  simp only [BitVec.getLsbD_append, BitVec.getLsbD_or, BitVec.getLsbD_shiftLeft, BitVec.getLsbD_setWidth]
  have hm : i ∈ List.range 40 := List.mem_range.mpr hi
  simp only [List.range, List.range.loop, List.mem_cons, List.not_mem_nil, or_false] at hm
  rcases hm with e|e|e|e|e|e|e|e|e|e|e|e|e|e|e|e|e|e|e|e|e|e|e|e|e|e|e|e|e|e|e|e|e|e|e|e|e|e|e|e <;> subst e <;> simp

/-- CK_HI's value and CK_LO's OR together are `{HexNib(b11), HexNib(b12)}` (R85). -/
theorem checksum_join (b c : Byte) : checksumHigh b ||| checksumLow c = hexNib b ++ hexNib c := by
  unfold checksumHigh checksumLow
  generalize hexNib b = x
  generalize hexNib c = y
  revert x y
  decide +kernel

/-- A FEED that is no END advances at most one position and returns false (40_feed.md R107). -/
theorem feedStep_not_end {s : State} (b : Byte) (h : s.pos.toNat < 13) :
    (feedStep b s).flag = false ∧ (feedStep b s).pos.toNat ≤ s.pos.toNat + 1 := by
  constructor
  · rw [Bool.eq_false_iff, ne_eq, feedStep_flag_iff]
    intro hf
    rw [hf.1] at h
    exact absurd h (by decide)
  · obtain ⟨hp, -, e⟩ | ⟨hp, -, e⟩ | ⟨p, -, -, hp, e⟩ | ⟨hp, e⟩ | ⟨hp, e⟩ | ⟨hp, e⟩ | ⟨hp, e⟩ := feedStep_cases s b <;>
      rw [e] <;> simp [hp]
    omega

end Sys2Proof.Machine
end

