-- ==== Sys2Proof/Laws/PerInstr.lean ====
section
/-! SUPPORT. The family EncodesInRow: the word of a well-formed instruction lies in its row of the opcode table. -/

namespace Sys2Proof

/-- Every command word lies in the row its two top bits name. -/
theorem command_in_row (t v : Bool) (d : Byte) :
    (commandWord t v d).toNat &&& 0x300 = t.toNat * 512 + v.toNat * 256 := by
  revert t v d
  decide +kernel

/-- Every arm word's top four bits are its position. -/
theorem arm_in_row (p : Pos) (b : Byte) : (armWord p b).toNat &&& 0xF00 = p.toNat * 256 := by
  revert p b
  decide +kernel

/-- The RECOVER row takes both its positions. -/
theorem recover_in_row (p : UnusedPos) (b : Byte) : (armWord p.pos b).toNat &&& 0xE00 = 0xE00 := by
  cases p <;> (revert b; decide +kernel)

namespace Laws.EncodesInRow

/-- The word the encoder gives a well-formed instruction is in the instruction's row (30_encoding.md R74, R77). -/
def Statement (i : Instr) : Prop :=
  i.wf = true → i.row.matches (encode i) = true

theorem nop (d : Byte) : Statement (.nop d) := by
  intro _
  simp [Instr.row, encode, OpcodeRow.matches, InstrWord.format, InstrWord.toNat, command_in_row]

theorem feed (b : Byte) : Statement (.feed b) := by
  intro _
  simp [Instr.row, encode, OpcodeRow.matches, InstrWord.format, InstrWord.toNat, command_in_row]

theorem take (d : Byte) : Statement (.take d) := by
  intro _
  simp [Instr.row, encode, OpcodeRow.matches, InstrWord.format, InstrWord.toNat, command_in_row]

theorem takeFeed (b : Byte) : Statement (.takeFeed b) := by
  intro _
  simp [Instr.row, encode, OpcodeRow.matches, InstrWord.format, InstrWord.toNat, command_in_row]

theorem feedIdleStart : Statement .feedIdleStart := by
  intro _
  decide

theorem feedIdleSkip (b : Byte) : Statement (.feedIdleSkip b) := by
  intro _
  simp [Instr.row, encode, OpcodeRow.matches, InstrWord.format, InstrWord.toNat, arm_in_row]

theorem feedNib1 (b : Byte) : Statement (.feedNib1 b) := by
  intro _
  simp [Instr.row, encode, OpcodeRow.matches, InstrWord.format, InstrWord.toNat, arm_in_row]

theorem feedNib2 (b : Byte) : Statement (.feedNib2 b) := by
  intro _
  simp [Instr.row, encode, OpcodeRow.matches, InstrWord.format, InstrWord.toNat, arm_in_row]

theorem feedNib3 (b : Byte) : Statement (.feedNib3 b) := by
  intro _
  simp [Instr.row, encode, OpcodeRow.matches, InstrWord.format, InstrWord.toNat, arm_in_row]

theorem feedNib4 (b : Byte) : Statement (.feedNib4 b) := by
  intro _
  simp [Instr.row, encode, OpcodeRow.matches, InstrWord.format, InstrWord.toNat, arm_in_row]

theorem feedNib5 (b : Byte) : Statement (.feedNib5 b) := by
  intro _
  simp [Instr.row, encode, OpcodeRow.matches, InstrWord.format, InstrWord.toNat, arm_in_row]

theorem feedNib6 (b : Byte) : Statement (.feedNib6 b) := by
  intro _
  simp [Instr.row, encode, OpcodeRow.matches, InstrWord.format, InstrWord.toNat, arm_in_row]

theorem feedNib7 (b : Byte) : Statement (.feedNib7 b) := by
  intro _
  simp [Instr.row, encode, OpcodeRow.matches, InstrWord.format, InstrWord.toNat, arm_in_row]

theorem feedNib8 (b : Byte) : Statement (.feedNib8 b) := by
  intro _
  simp [Instr.row, encode, OpcodeRow.matches, InstrWord.format, InstrWord.toNat, arm_in_row]

theorem feedNib9 (b : Byte) : Statement (.feedNib9 b) := by
  intro _
  simp [Instr.row, encode, OpcodeRow.matches, InstrWord.format, InstrWord.toNat, arm_in_row]

theorem feedNib10 (b : Byte) : Statement (.feedNib10 b) := by
  intro _
  simp [Instr.row, encode, OpcodeRow.matches, InstrWord.format, InstrWord.toNat, arm_in_row]

theorem feedCkHi (b : Byte) : Statement (.feedCkHi b) := by
  intro _
  simp [Instr.row, encode, OpcodeRow.matches, InstrWord.format, InstrWord.toNat, arm_in_row]

theorem feedCkLo (b : Byte) : Statement (.feedCkLo b) := by
  intro _
  simp [Instr.row, encode, OpcodeRow.matches, InstrWord.format, InstrWord.toNat, arm_in_row]

theorem feedEnd (b : Byte) : Statement (.feedEnd b) := by
  intro _
  simp [Instr.row, encode, OpcodeRow.matches, InstrWord.format, InstrWord.toNat, arm_in_row]

theorem feedRecover (p : UnusedPos) (b : Byte) : Statement (.feedRecover p b) := by
  intro _
  simp [Instr.row, encode, OpcodeRow.matches, InstrWord.format, InstrWord.toNat, recover_in_row]

end Laws.EncodesInRow

end Sys2Proof
end

