-- ==== Sys2Proof/Tests/Slice0.lean ====
section
/-! SUPPORT. The author's tests: words written out from the spec's encodings, the vectors of 95_test_vectors.md (the document's
two scenarios E2 and E3 through their last step, the others derived from the rules, none from a run), the ill-formed term,
and for every statement with hypotheses a state that meets them. -/

namespace Sys2Proof.Tests

open Sys2Proof.Machine

/-- A state with nothing driven and nothing answered yet. -/
def st (pos : Pos) (idAcc : Ident) (ckRx : Checksum) (flag : Bool) : State where
  pos := pos
  idAcc := idAcc
  ckRx := ckRx
  flag := flag
  frameOk := false
  pending := []
  responses := []

/-- The next state of a step that has one. -/
def after (o : Host.Outcome State Fault Refusal) : Option State :=
  match o with
  | .next t => some t
  | .fault _ => none
  | .refused _ => none

/-- The refusal of a step that is refused. -/
def refusal (o : Host.Outcome State Fault Refusal) : Option Refusal :=
  match o with
  | .next _ => none
  | .fault _ => none
  | .refused r => some r

/-! ## Well-formedness -/

theorem test_wf_refuses_skip_of_start_marker : (Instr.feedIdleSkip 0x02#8).wf = false := by decide

theorem test_wf_takes_skip_of_end_marker : (Instr.feedIdleSkip 0x03#8).wf = true := by decide

/-! ## Decoding: a word of every row, its bits as 30_encoding.md R73, R74 and R77 give them -/

theorem test_decode_nop : decode .cmd10 0b0010101011 = .ok (.nop 0xAB#8) := by decide

theorem test_decode_feed : decode .cmd10 0b0101000110 = .ok (.feed 0x46#8) := by decide

theorem test_decode_take : decode .cmd10 0b1011111111 = .ok (.take 0xFF#8) := by decide

theorem test_decode_takeFeed : decode .cmd10 0b1100000010 = .ok (.takeFeed 0x02#8) := by decide

theorem test_decode_feedIdleStart : decode .arm12 0b000000000010 = .ok (.feedIdleStart) := by decide

theorem test_decode_feedIdleSkip : decode .arm12 0b000001000001 = .ok (.feedIdleSkip 0x41#8) := by decide

theorem test_decode_feedNib1 : decode .arm12 0b000101000110 = .ok (.feedNib1 0x46#8) := by decide

theorem test_decode_feedNib2 : decode .arm12 0b001001000110 = .ok (.feedNib2 0x46#8) := by decide

theorem test_decode_feedNib3 : decode .arm12 0b001101000110 = .ok (.feedNib3 0x46#8) := by decide

theorem test_decode_feedNib4 : decode .arm12 0b010001000110 = .ok (.feedNib4 0x46#8) := by decide

theorem test_decode_feedNib5 : decode .arm12 0b010101000110 = .ok (.feedNib5 0x46#8) := by decide

theorem test_decode_feedNib6 : decode .arm12 0b011001000110 = .ok (.feedNib6 0x46#8) := by decide

theorem test_decode_feedNib7 : decode .arm12 0b011101000110 = .ok (.feedNib7 0x46#8) := by decide

theorem test_decode_feedNib8 : decode .arm12 0b100001000110 = .ok (.feedNib8 0x46#8) := by decide

theorem test_decode_feedNib9 : decode .arm12 0b100101000110 = .ok (.feedNib9 0x46#8) := by decide

theorem test_decode_feedNib10 : decode .arm12 0b101001000110 = .ok (.feedNib10 0x46#8) := by decide

theorem test_decode_feedCkHi : decode .arm12 0b101101100011 = .ok (.feedCkHi 0x63#8) := by decide

theorem test_decode_feedCkLo : decode .arm12 0b110000110001 = .ok (.feedCkLo 0x31#8) := by decide

theorem test_decode_feedEnd : decode .arm12 0b110100000011 = .ok (.feedEnd 0x03#8) := by decide

theorem test_decode_feedRecover : decode .arm12 0b111000000010 = .ok (.feedRecover .p14 0x02#8) := by decide

theorem test_decode_rejects_11_bit_command : decode .cmd10 1024 = .error .commandWiderThan10Bits := by decide

theorem test_decode_rejects_13_bit_arm_word : decode .arm12 4096 = .error .armWordWiderThan12Bits := by decide

/-- The host's numbers: a command word, an arm word above the commands, an arm word of a wider row (log 5). -/
theorem test_decode_table_words :
    decodeTableWord 16 0x100 = some (.feed 0x00#8) ∧ decodeTableWord 16 0xD00 = some (.feedEnd 0x00#8) ∧
      decodeTableWord 32 0x300 = some (.feedNib3 0x00#8) ∧ decodeTableWord 12 0x002 = some .feedIdleStart := by
  decide

/-- The host's arm word is what the next step runs: END's row from the reset state drops the empty frame (byte 0x00). -/
theorem test_fetch_word_runs_end :
    after (step (State.reset.withFetchWord 16 0xD00)) = some ⟨0#4, 0#40, 0x00#8, false, false, [], [.feed false]⟩ := by decide

/-! ## Operands: vectors V-HEX-1 to V-HEX-15, V-XOR-1 to V-XOR-10 -/

theorem test_hexNib_vectors :
    [0x30#8, 0x39#8, 0x41#8, 0x46#8, 0x61#8, 0x66#8, 0x3A#8, 0x40#8, 0x47#8, 0x67#8, 0x00#8, 0x02#8, 0x03#8, 0x2F#8,
        0xFF#8].map hexNib =
      [0x0#4, 0x9#4, 0xA#4, 0xF#4, 0xA#4, 0xF#4, 0x3#4, 0x9#4, 0x0#4, 0x0#4, 0x9#4, 0xB#4, 0xC#4, 0x8#4, 0x8#4] := by
  decide

theorem test_xor5_vectors :
    [0x0000000000#40, 0x0000000001#40, 0xFFFFFFFFFF#40, 0x0102030405#40, 0x1A2B3C4D5E#40, 0x62E3086CED#40,
        0x8000000000#40, 0xAAAAAAAAAA#40, 0x1111111111#40, 0x0000000012#40].map xor5 =
      [0x00#8, 0x01#8, 0xFF#8, 0x01#8, 0x1E#8, 0x08#8, 0x80#8, 0xAA#8, 0x11#8, 0x12#8] := by
  decide

/-- V-FEED-24's bytes, copied from the vector, are `Frame(0x1A2B3C4D5E)` with characters 3, 7 and 11 in upper case (B, D and
the checksum's E) and the others in lower case; E2's are `Frame(1)`. -/
theorem test_frame_bytes :
    frame (fun i => i % 4 == 3) 0x1A2B3C4D5E#40 =
        [0x02#8, 0x31#8, 0x61#8, 0x32#8, 0x42#8, 0x33#8, 0x63#8, 0x34#8, 0x44#8, 0x35#8, 0x65#8, 0x31#8, 0x45#8, 0x03#8] ∧
      frame (fun _ => true) 0x0000000001#40 =
        [0x02#8, 0x30#8, 0x30#8, 0x30#8, 0x30#8, 0x30#8, 0x30#8, 0x30#8, 0x30#8, 0x30#8, 0x31#8, 0x30#8, 0x31#8, 0x03#8] := by
  decide

/-- Lines of programs P4 and P2 (95_test_vectors.md section 9): `FRAME 0x0000000001, ck=0xFF` (steps 0 to 13),
`FRAME 0x00000000AB, end=0x0D` (steps 14 to 27) and `FRAMELC 0x1A2B3C4D5E` (steps 3 to 16 of P2). -/
theorem test_assembler_lines :
    (AsmLine.frameCk 0x0000000001#40 0xFF#8).words =
        [0x102, 0x130, 0x130, 0x130, 0x130, 0x130, 0x130, 0x130, 0x130, 0x130, 0x131, 0x146, 0x146, 0x103].map .cmd ∧
      (AsmLine.frameEnd 0x00000000AB#40 0x0D#8).words =
        [0x102, 0x130, 0x130, 0x130, 0x130, 0x130, 0x130, 0x130, 0x130, 0x141, 0x142, 0x141, 0x142, 0x10D].map .cmd ∧
      (AsmLine.frameLc 0x1A2B3C4D5E#40).words =
        [0x102, 0x131, 0x161, 0x132, 0x162, 0x133, 0x163, 0x134, 0x164, 0x135, 0x165, 0x131, 0x165, 0x103].map .cmd := by
  decide

/-! ## FEED, one step each: vectors V-FEED-1 to V-FEED-16 -/

theorem test_v_feed_1 :
    after (exec (.feed 0x02#8) (st 0#4 0x0000000000#40 0x00#8 false)) = some ⟨1#4, 0x0000000000#40, 0x00#8, false, false, [], [.feed false]⟩ ∧
      after (exec (.feedIdleStart) (st 0#4 0x0000000000#40 0x00#8 false)) = some ⟨1#4, 0x0000000000#40, 0x00#8, false, false, [], [.feed false]⟩ := by
  decide

theorem test_v_feed_2 :
    after (exec (.feed 0x02#8) (st 0#4 0x0000000001#40 0x01#8 true)) = some ⟨1#4, 0x0000000000#40, 0x00#8, false, false, [], [.feed false]⟩ ∧
      after (exec (.feedIdleStart) (st 0#4 0x0000000001#40 0x01#8 true)) = some ⟨1#4, 0x0000000000#40, 0x00#8, false, false, [], [.feed false]⟩ := by
  decide

theorem test_v_feed_3 :
    after (exec (.feed 0x41#8) (st 0#4 0x0000000001#40 0x01#8 true)) = some ⟨0#4, 0x0000000001#40, 0x01#8, false, false, [], [.feed false]⟩ ∧
      after (exec (.feedIdleSkip 0x41#8) (st 0#4 0x0000000001#40 0x01#8 true)) = some ⟨0#4, 0x0000000001#40, 0x01#8, false, false, [], [.feed false]⟩ := by
  decide

theorem test_v_feed_4 :
    after (exec (.feed 0x03#8) (st 0#4 0x0000000000#40 0x00#8 false)) = some ⟨0#4, 0x0000000000#40, 0x00#8, false, false, [], [.feed false]⟩ ∧
      after (exec (.feedIdleSkip 0x03#8) (st 0#4 0x0000000000#40 0x00#8 false)) = some ⟨0#4, 0x0000000000#40, 0x00#8, false, false, [], [.feed false]⟩ := by
  decide

theorem test_v_feed_5 :
    after (exec (.feed 0x46#8) (st 1#4 0x0000000000#40 0x00#8 false)) = some ⟨2#4, 0xF000000000#40, 0x00#8, false, false, [], [.feed false]⟩ ∧
      after (exec (.feedNib1 0x46#8) (st 1#4 0x0000000000#40 0x00#8 false)) = some ⟨2#4, 0xF000000000#40, 0x00#8, false, false, [], [.feed false]⟩ := by
  decide

theorem test_v_feed_6 :
    after (exec (.feed 0x61#8) (st 10#4 0xFFFFFFFFF0#40 0x00#8 false)) = some ⟨11#4, 0xFFFFFFFFFA#40, 0x00#8, false, false, [], [.feed false]⟩ ∧
      after (exec (.feedNib10 0x61#8) (st 10#4 0xFFFFFFFFF0#40 0x00#8 false)) = some ⟨11#4, 0xFFFFFFFFFA#40, 0x00#8, false, false, [], [.feed false]⟩ := by
  decide

theorem test_v_feed_7 :
    after (exec (.feed 0x02#8) (st 5#4 0x1234000000#40 0x00#8 false)) = some ⟨6#4, 0x1234B00000#40, 0x00#8, false, false, [], [.feed false]⟩ ∧
      after (exec (.feedNib5 0x02#8) (st 5#4 0x1234000000#40 0x00#8 false)) = some ⟨6#4, 0x1234B00000#40, 0x00#8, false, false, [], [.feed false]⟩ := by
  decide

theorem test_v_feed_8 :
    after (exec (.feed 0x47#8) (st 3#4 0x1200000000#40 0x00#8 false)) = some ⟨4#4, 0x1200000000#40, 0x00#8, false, false, [], [.feed false]⟩ ∧
      after (exec (.feedNib3 0x47#8) (st 3#4 0x1200000000#40 0x00#8 false)) = some ⟨4#4, 0x1200000000#40, 0x00#8, false, false, [], [.feed false]⟩ := by
  decide

theorem test_v_feed_9 :
    after (exec (.feed 0x63#8) (st 11#4 0x0000000012#40 0x00#8 false)) = some ⟨12#4, 0x0000000012#40, 0xC0#8, false, false, [], [.feed false]⟩ ∧
      after (exec (.feedCkHi 0x63#8) (st 11#4 0x0000000012#40 0x00#8 false)) = some ⟨12#4, 0x0000000012#40, 0xC0#8, false, false, [], [.feed false]⟩ := by
  decide

theorem test_v_feed_10 :
    after (exec (.feed 0x31#8) (st 12#4 0x0000000001#40 0x00#8 false)) = some ⟨13#4, 0x0000000001#40, 0x01#8, false, false, [], [.feed false]⟩ ∧
      after (exec (.feedCkLo 0x31#8) (st 12#4 0x0000000001#40 0x00#8 false)) = some ⟨13#4, 0x0000000001#40, 0x01#8, false, false, [], [.feed false]⟩ := by
  decide

theorem test_v_feed_11 :
    after (exec (.feed 0x03#8) (st 13#4 0x0000000001#40 0x01#8 false)) = some ⟨0#4, 0x0000000001#40, 0x01#8, true, true, [], [.feed true]⟩ ∧
      after (exec (.feedEnd 0x03#8) (st 13#4 0x0000000001#40 0x01#8 false)) = some ⟨0#4, 0x0000000001#40, 0x01#8, true, true, [], [.feed true]⟩ := by
  decide

theorem test_v_feed_12 :
    after (exec (.feed 0x03#8) (st 13#4 0x0000000001#40 0xFF#8 false)) = some ⟨0#4, 0x0000000001#40, 0xFF#8, false, false, [], [.feed false]⟩ ∧
      after (exec (.feedEnd 0x03#8) (st 13#4 0x0000000001#40 0xFF#8 false)) = some ⟨0#4, 0x0000000001#40, 0xFF#8, false, false, [], [.feed false]⟩ := by
  decide

theorem test_v_feed_13 :
    after (exec (.feed 0x02#8) (st 13#4 0x0000000001#40 0x01#8 false)) = some ⟨0#4, 0x0000000001#40, 0x01#8, false, false, [], [.feed false]⟩ ∧
      after (exec (.feedEnd 0x02#8) (st 13#4 0x0000000001#40 0x01#8 false)) = some ⟨0#4, 0x0000000001#40, 0x01#8, false, false, [], [.feed false]⟩ := by
  decide

theorem test_v_feed_14 :
    after (exec (.feed 0x41#8) (st 13#4 0x0000000001#40 0xFF#8 false)) = some ⟨0#4, 0x0000000001#40, 0xFF#8, false, false, [], [.feed false]⟩ ∧
      after (exec (.feedEnd 0x41#8) (st 13#4 0x0000000001#40 0xFF#8 false)) = some ⟨0#4, 0x0000000001#40, 0xFF#8, false, false, [], [.feed false]⟩ := by
  decide

theorem test_v_feed_15 :
    after (exec (.feed 0x02#8) (st 14#4 0x0000000001#40 0x01#8 false)) = some ⟨0#4, 0x0000000001#40, 0x01#8, false, false, [], [.feed false]⟩ ∧
      after (exec (.feedRecover .p14 0x02#8) (st 14#4 0x0000000001#40 0x01#8 false)) = some ⟨0#4, 0x0000000001#40, 0x01#8, false, false, [], [.feed false]⟩ := by
  decide

theorem test_v_feed_16 :
    after (exec (.feed 0x30#8) (st 15#4 0x0000000000#40 0x00#8 false)) = some ⟨0#4, 0x0000000000#40, 0x00#8, false, false, [], [.feed false]⟩ ∧
      after (exec (.feedRecover .p15 0x30#8) (st 15#4 0x0000000000#40 0x00#8 false)) = some ⟨0#4, 0x0000000000#40, 0x00#8, false, false, [], [.feed false]⟩ := by
  decide

/-- The NIB rows no vector names, at their own slots: the character '9' (40_feed.md R104). -/
theorem test_nib_slots :
    after (exec (.feedNib2 0x39#8) (st 2#4 0x0000000000#40 0x00#8 false)) =
        some ⟨3#4, 0x0900000000#40, 0x00#8, false, false, [], [.feed false]⟩ ∧
      after (exec (.feedNib4 0x39#8) (st 4#4 0x0000000000#40 0x00#8 false)) =
        some ⟨5#4, 0x0009000000#40, 0x00#8, false, false, [], [.feed false]⟩ ∧
      after (exec (.feedNib6 0x39#8) (st 6#4 0x0000000000#40 0x00#8 false)) =
        some ⟨7#4, 0x0000090000#40, 0x00#8, false, false, [], [.feed false]⟩ ∧
      after (exec (.feedNib7 0x39#8) (st 7#4 0x0000000000#40 0x00#8 false)) =
        some ⟨8#4, 0x0000009000#40, 0x00#8, false, false, [], [.feed false]⟩ ∧
      after (exec (.feedNib8 0x39#8) (st 8#4 0x0000000000#40 0x00#8 false)) =
        some ⟨9#4, 0x0000000900#40, 0x00#8, false, false, [], [.feed false]⟩ ∧
      after (exec (.feedNib9 0x39#8) (st 9#4 0x0000000000#40 0x00#8 false)) =
        some ⟨10#4, 0x0000000090#40, 0x00#8, false, false, [], [.feed false]⟩ := by
  decide

theorem test_arm_row_refused_elsewhere :
    refusal (exec (.feedNib3 0x47#8) (st 4#4 0#40 0#8 false)) = some .armNotSelected ∧
      refusal (exec .feedIdleStart (st 1#4 0#40 0#8 false)) = some .armNotSelected := by
  decide

/-! ## TAKE, TAKE_FEED, NOP: vectors V-TAKE-1 to V-TAKE-7 -/

theorem test_v_take_1 :
    after (exec (.take 0x00#8) (st 0#4 0x1A2B3C4D5E#40 0x1E#8 true)) = some ⟨0#4, 0x1A2B3C4D5E#40, 0x1E#8, false, false, [], [.take (some 0x1A2B3C4D5E#40)]⟩ := by
  decide

theorem test_v_take_2 :
    after (exec (.take 0x00#8) (st 0#4 0x1A2B3C4D5E#40 0x1E#8 false)) = some ⟨0#4, 0x1A2B3C4D5E#40, 0x1E#8, false, false, [], [.take none]⟩ := by
  decide

theorem test_v_take_3 :
    after (exec (.take 0xFF#8) (st 0#4 0x1A2B3C4D5E#40 0x1E#8 true)) = some ⟨0#4, 0x1A2B3C4D5E#40, 0x1E#8, false, false, [], [.take (some 0x1A2B3C4D5E#40)]⟩ := by
  decide

theorem test_v_take_4 :
    after (exec (.takeFeed 0x02#8) (st 0#4 0x0000000001#40 0x01#8 true)) = some ⟨1#4, 0x0000000000#40, 0x00#8, false, false, [], [.take (some 0x0000000001#40), .feed false]⟩ := by
  decide

theorem test_v_take_5 :
    after (exec (.takeFeed 0x03#8) (st 13#4 0x0000000001#40 0x01#8 false)) = some ⟨0#4, 0x0000000001#40, 0x01#8, true, true, [], [.take none, .feed true]⟩ := by
  decide

theorem test_v_take_6 :
    after (exec (.nop 0x00#8) (st 0#4 0x0000000001#40 0x01#8 true)) = some ⟨0#4, 0x0000000001#40, 0x01#8, true, false, [], []⟩ := by
  decide

theorem test_v_take_7 :
    after (exec (.nop 0xAB#8) (st 0#4 0x0000000001#40 0x01#8 true)) = some ⟨0#4, 0x0000000001#40, 0x01#8, true, false, [], []⟩ := by
  decide

/-- The example of R134: `frame_ok` falls, `flag` stays. -/
theorem test_nop_clears_frame_ok :
    (after (exec (.nop 0x00#8) { st 0#4 1#40 1#8 true with frameOk := true })).map (fun t => (t.flag, t.frameOk)) =
      some (true, false) := by
  decide

/-! ## Reset edges: vectors V-RST-1 to V-RST-3 -/

theorem test_v_rst_1 :
    after (step { st 7#4 0xAB00000000#40 0x00#8 false with pending := [⟨true, false, true, 0x03#8⟩] }) = some ⟨0#4, 0x0000000000#40, 0x00#8, false, false, [], []⟩ := by
  decide

theorem test_v_rst_2 :
    after (step { st 0#4 0x0000000001#40 0x01#8 true with pending := [⟨true, true, false, 0x00#8⟩] }) = some ⟨0#4, 0x0000000000#40, 0x00#8, false, false, [], []⟩ := by
  decide

theorem test_v_rst_3 :
    after (step { st 13#4 0x0000000001#40 0x01#8 false with pending := [⟨true, false, true, 0x03#8⟩] }) = some ⟨0#4, 0x0000000000#40, 0x00#8, false, false, [], []⟩ := by
  decide

/-! ## Witnesses: for every statement with hypotheses, values that meet them, each clause at the ends of its range -/

/-- An edge that feeds `b`. -/
def feedEdge (b : Byte) : EdgeInput := ⟨false, false, true, b⟩

/-- A ready identifier: `id_acc` = 1, `ck_rx` = 1. -/
def ready : State := st 0#4 1#40 0x01#8 true

theorem test_witness_DecodeOfEncodeIsIdentity :
    (Instr.feedIdleSkip 0x01#8).wf = true ∧ (Instr.feedRecover .p15 0xFF#8).wf = true := by decide

theorem test_witness_CommandWordDecode : 0 < 1024 ∧ 1023 < 1024 := by decide

theorem test_witness_DataBitsIgnoredWithoutValid :
    EdgeInput.idle.inValid = false ∧ (EdgeInput.mk false true false 0xFF#8).inValid = false := by decide

theorem test_witness_HexNibClosedForm :
    ((0x30#8 : Byte) ≤ 0x30#8 ∧ (0x30#8 : Byte) ≤ 0x39#8) ∧ ((0x30#8 : Byte) ≤ 0x39#8 ∧ (0x39#8 : Byte) ≤ 0x39#8) ∧
      ¬ ((0x30#8 : Byte) ≤ 0x2F#8 ∧ (0x2F#8 : Byte) ≤ 0x39#8) ∧ ¬ ((0x30#8 : Byte) ≤ 0x3A#8 ∧ (0x3A#8 : Byte) ≤ 0x39#8) := by
  decide

theorem test_witness_ArmIsFirstMatchingRow :
    firstMatchingArm ready.pos 0x02#8 = some .idleStart ∧ firstMatchingArm ready.pos 0x03#8 = some .idleSkip ∧
      firstMatchingArm 15#4 0x02#8 = some .recover := by
  decide

theorem test_witness_NibblePlacement : (1 ≤ 1 ∧ 1 ≤ 10) ∧ (1 ≤ 10 ∧ 10 ≤ 10) := by decide

theorem test_witness_WideAccumulatorAgrees : (1 ≤ 1 ∧ 1 ≤ 10) ∧ (1 ≤ 10 ∧ 10 ≤ 10) := by decide

theorem test_witness_ChecksumOrderIrrelevant :
    [0x01#8, 0x05#8, 0x04#8, 0x03#8, 0x02#8].Perm
      [(0x0102030405#40).extractLsb' 0 8, (0x0102030405#40).extractLsb' 8 8, (0x0102030405#40).extractLsb' 16 8,
        (0x0102030405#40).extractLsb' 24 8, (0x0102030405#40).extractLsb' 32 8] := by
  decide

theorem test_witness_StepRunsPresentedCommand :
    (({ ready with pending := [feedEdge 0x02#8] }).pending = feedEdge 0x02#8 :: [] ∧ (feedEdge 0x02#8).rst = false ∧
        decode .cmd10 (commandWord (feedEdge 0x02#8).take (feedEdge 0x02#8).inValid (feedEdge 0x02#8).inData).toNat =
          .ok (.feed 0x02#8)) ∧
      (({ ready with pending := [⟨true, true, true, 0x03#8⟩] }).pending = ⟨true, true, true, 0x03#8⟩ :: [] ∧
        (EdgeInput.mk true true true 0x03#8).rst = true) ∧
      (({ ready with pending := [.idle] }).pending = EdgeInput.idle :: [] ∧ EdgeInput.idle.rst = false ∧
        EdgeInput.idle.take = false ∧ EdgeInput.idle.inValid = false) := by
  decide

theorem test_witness_PlacedWordIsRunNext :
    (16 = 10 ∨ 16 = 16) ∧ (16 = 12 ∨ 16 = 16 ∧ 1024 ≤ (0x400#12 : ArmWord).toNat) := by decide

theorem test_witness_UndrivenEdgeIsNop : ready.pending = [] := by decide

theorem test_witness_ResetOverridesCommand :
    ({ ready with pending := [⟨true, true, true, 0x03#8⟩] }).pending = ⟨true, true, true, 0x03#8⟩ :: [] ∧
      (EdgeInput.mk true true true 0x03#8).rst = true := by
  decide

theorem test_witness_StepKeepsRegisterInvariant :
    (st 1#4 0#40 0x00#8 false).Inv ∧ (st 11#4 0xFFFFFFFFFF#40 0x00#8 false).Inv ∧ (st 12#4 1#40 0xF0#8 false).Inv ∧
      ready.Inv ∧ ∃ t, step ready = .next t :=
  ⟨by decide, by decide, by decide, by decide, _, rfl⟩

theorem test_witness_StepKeepsSurfacedAtMostOnce :
    ({ ready with responses := [.feed true] }).SurfacedAtMostOnce ∧
      ∃ t, step { ready with responses := [.feed true] } = .next t :=
  ⟨by decide, _, rfl⟩

theorem test_witness_ReadyMeansLastFeedAccepted :
    (({ ready with responses := [.feed true] }).ReadyAfterAcceptance ∧
        ∃ t, step { ready with responses := [.feed true] } = .next t) ∧
      (∃ t, exec (.feed 0x03#8) (st 13#4 1#40 0x01#8 false) = .next t ∧ t.flag = true) ∧
      ∃ t, exec (.takeFeed 0x03#8) (st 13#4 1#40 0x01#8 false) = .next t ∧ t.flag = true :=
  ⟨⟨by decide, _, rfl⟩, ⟨_, rfl, by decide⟩, _, rfl, by decide⟩

theorem test_witness_UnusedPositionsUnreachable :
    ∃ t, core.run 2 { State.reset with pending := [feedEdge 0x02#8, feedEdge 0x46#8] } = .next t :=
  ⟨_, rfl⟩

theorem test_witness_IdleStartResult : ready.pos = 0#4 := by decide

theorem test_witness_IdleSkipResult : ready.pos = 0#4 ∧ 0x03#8 ≠ (0x02#8 : Byte) := by decide

/-- The rows of NIB(p), as statement NibResult lists them. -/
def nibRows (b : Byte) : List (Nat × Instr) :=
  [(1, .feedNib1 b), (2, .feedNib2 b), (3, .feedNib3 b), (4, .feedNib4 b), (5, .feedNib5 b), (6, .feedNib6 b),
    (7, .feedNib7 b), (8, .feedNib8 b), (9, .feedNib9 b), (10, .feedNib10 b)]

theorem test_witness_NibResult :
    ((1, Instr.feedNib1 0x46#8) ∈ nibRows 0x46#8 ∧ (st 1#4 0#40 0#8 false).pos = BitVec.ofNat 4 1) ∧
      ((10, Instr.feedNib10 0x46#8) ∈ nibRows 0x46#8 ∧ (st 10#4 0#40 0#8 false).pos = BitVec.ofNat 4 10) := by
  decide

theorem test_witness_CkHiResult : (st 11#4 1#40 0#8 false).pos = 11#4 := by decide

theorem test_witness_CkLoResult : (st 12#4 1#40 0#8 false).pos = 12#4 := by decide

theorem test_witness_EndResult : (st 13#4 1#40 1#8 false).pos = 13#4 := by decide

theorem test_witness_RecoverResult :
    (st 14#4 1#40 1#8 false).pos = UnusedPos.p14.pos ∧ (st 15#4 1#40 1#8 false).pos = UnusedPos.p15.pos := by decide

theorem test_witness_ArmRowRunsOnlyWhereSelected :
    isCommand (.takeFeed 0x00#8) = true ∧
      (isCommand (.feedEnd 0x03#8) = false ∧ armInstr (st 13#4 1#40 1#8 false).pos 0x03#8 = .feedEnd 0x03#8) ∧
      isCommand (.feedIdleSkip 0x02#8) = false ∧ ¬ ∃ b, armInstr ready.pos b = .feedIdleSkip 0x02#8 := by
  decide +kernel

theorem test_witness_NibFillsItsSlotOnly :
    ((st 1#4 0#40 0#8 false).UnfilledSlotsZero ∧ 1 ≤ (st 1#4 0#40 0#8 false).pos.toNat ∧
        ∃ t, exec (.feed 0x46#8) (st 1#4 0#40 0#8 false) = .next t) ∧
      ((st 10#4 0xFFFFFFFFF0#40 0#8 false).UnfilledSlotsZero ∧ (st 10#4 0xFFFFFFFFF0#40 0#8 false).pos.toNat ≤ 10 ∧
        ∃ t, exec (.feed 0x61#8) (st 10#4 0xFFFFFFFFF0#40 0#8 false) = .next t) :=
  ⟨⟨by decide, by decide, _, rfl⟩, by decide, by decide, _, rfl⟩

theorem test_witness_TakeResult : ready.flag = true ∧ State.reset.flag = false := by decide

theorem test_witness_TakeWithNoneReady : State.reset.flag = false := by decide

theorem test_witness_SecondTakeReturnsNone :
    [Instr.nop 0#8, .feed 0x41#8].all isCommand = true ∧ exec (.take 0#8) ready = .next (takeStep ready) ∧
      runCommands [.nop 0#8, .feed 0x41#8] (takeStep ready) = .next (feedStep 0x41#8 (nopStep (takeStep ready))) ∧
      (feedStep 0x41#8 (nopStep (takeStep ready))).responses = (takeStep ready).responses ++ [.feed false] ∧
      [Response.feed false].all (fun r => !r.accepts) = true :=
  ⟨by decide, rfl, rfl, by decide, by decide⟩

theorem test_witness_NopKeepsReadyIdentifier : ready.flag = true := by decide

theorem test_witness_PosSequence :
    ready.pos = 0#4 ∧ 1 ≤ (st 1#4 0#40 0#8 false).pos.toNat ∧ (st 12#4 0#40 0#8 false).pos.toNat ≤ 12 ∧
      (st 13#4 0#40 0#8 false).pos = 13#4 := by
  decide

theorem test_witness_AccumulatorWriters :
    ¬ (true = true ∧ (ready.pos = 0#4 ∧ 0x41#8 = (0x02#8 : Byte) ∨ 1 ≤ ready.pos.toNat ∧ ready.pos.toNat ≤ 10)) ∧
      ¬ (true = true ∧ (ready.pos = 0#4 ∧ 0x41#8 = (0x02#8 : Byte) ∨ ready.pos = 11#4 ∨ ready.pos = 12#4)) := by
  decide

theorem test_witness_InstructionFrame :
    (∃ t, exec (.nop 0#8) ready = .next t) ∧ (∃ t, exec (.take 0#8) ready = .next t) ∧
      (∃ t, exec (.feedIdleStart) ready = .next t) ∧
      (∃ t, exec (.feedIdleSkip 0x41#8) ready = .next t) ∧
      (∃ t, exec (.feedNib1 0x41#8) (st 1#4 0#40 0#8 false) = .next t) ∧
      (∃ t, exec (.feedNib10 0x41#8) (st 10#4 0#40 0#8 false) = .next t) ∧
      (∃ t, exec (.feedCkHi 0x41#8) (st 11#4 0#40 0#8 false) = .next t) ∧
      (∃ t, exec (.feedCkLo 0x41#8) (st 12#4 0#40 0#8 false) = .next t) ∧
      (∃ t, exec (.feedEnd 0x03#8) (st 13#4 0#40 0#8 false) = .next t) ∧
      ∃ t, exec (.feedRecover .p15 0x41#8) (st 15#4 0#40 0#8 false) = .next t :=
  ⟨⟨_, rfl⟩, ⟨_, rfl⟩, ⟨_, rfl⟩, ⟨_, rfl⟩, ⟨_, rfl⟩, ⟨_, rfl⟩, ⟨_, rfl⟩, ⟨_, rfl⟩, ⟨_, rfl⟩, _, rfl⟩

/-- The clauses of InstructionFrame on FEED and TAKE_FEED: an idle byte, and the positions next to the writers' ranges. -/
theorem test_witness_InstructionFrame_feed :
    (∃ t, exec (.feed 0x41#8) ready = .next t) ∧ (∃ t, exec (.takeFeed 0x41#8) ready = .next t) ∧
      (ready.pos = 0#4 ∧ 0x41#8 ≠ (0x02#8 : Byte)) ∧
      ¬ ((st 11#4 0#40 0#8 false).pos = 0#4 ∧ 0x02#8 = (0x02#8 : Byte) ∨
        1 ≤ (st 11#4 0#40 0#8 false).pos.toNat ∧ (st 11#4 0#40 0#8 false).pos.toNat ≤ 10) ∧
      ¬ ((st 10#4 0#40 0#8 false).pos = 0#4 ∧ 0x02#8 = (0x02#8 : Byte) ∨ (st 10#4 0#40 0#8 false).pos = 11#4 ∨
        (st 10#4 0#40 0#8 false).pos = 12#4) :=
  ⟨⟨_, rfl⟩, ⟨_, rfl⟩, by decide, by decide, by decide⟩

theorem test_witness_TakeResponseIsOnThePorts :
    ready.outputs.ready = true ∧ State.reset.outputs.ready = false := by decide

theorem test_witness_DropsIndistinguishable :
    (st 13#4 1#40 0xFF#8 false).pos = 13#4 ∧ (st 13#4 1#40 0xFF#8 false).ckRx ≠ xor5 (st 13#4 1#40 0xFF#8 false).idAcc ∧
      0x02#8 ≠ (0x03#8 : Byte) := by
  decide

theorem test_witness_AnomaliesResynchronise :
    Anomaly.idleNoise.occurs 0x03#8 ready = true ∧ Anomaly.endMarker.occurs 0x02#8 (st 13#4 1#40 1#8 false) = true ∧
      Anomaly.checksum.occurs 0x03#8 (st 13#4 1#40 0xFF#8 false) = true ∧
      Anomaly.nonHex.occurs 0x47#8 (st 1#4 0#40 0#8 false) = true ∧
      Anomaly.nonHex.occurs 0x2F#8 (st 12#4 0#40 0#8 false) = true ∧ Anomaly.lost.occurs 0x02#8 ready = true ∧
      ready.pos ≠ 13#4 := by
  decide

theorem test_witness_HandoffWindow : ready.flag = true ∧ ready.pos = 0#4 := by decide

/-- The shared hypothesis of AnyFourteenBytesDecoded, ValidFrameDecodes and BackToBackFrames, and R110's first byte. -/
theorem test_witness_idle : State.reset.pos = 0#4 ∧ (fun _ : Nat => (0x02#8 : Byte)) 0 = 0x02#8 := by decide

theorem test_witness_NoiseBeforeFrameIsHarmless :
    State.reset.pos = 0#4 ∧ ∀ b ∈ [0x58#8, 0x59#8, 0x5A#8, 0x03#8, 0x00#8], b ≠ 0x02#8 := by
  decide

theorem test_witness_FrameAfterAnyEndDecodes : (st 13#4 1#40 1#8 false).pos = 13#4 := by decide

theorem test_witness_EveryCommandListRunsToItsEnd :
    [Instr.nop 0#8, .feed 0x02#8, .take 0#8, .takeFeed 0x41#8].all isCommand = true := by decide

theorem test_witness_InstancesShareNothing :
    (1 : Nat) ≠ 0 ∧ [ready, State.reset][0]? = some ready ∧ ∃ t, step ready = .next t :=
  ⟨by decide, rfl, _, rfl⟩

end Sys2Proof.Tests
end

/-! Proofs of the family 10_state.md: what each of the four commands does to `frame_ok`, `pos` and `flag` (R22, R26, R27),
what an edge runs (R31), and the output ports (R32, R33). -/

namespace Sys2Proof.Machine

section StateFamily

variable (t v : Bool) (d b : Byte) (s : State)

/-! ## The four commands, by their bit `in_valid` -/

/-- A command with `in_valid` = 1 is a FEED of its data, for TAKE_FEED on the state TAKE left (41_take.md R133): either way
`pos` and both accumulators are those before the command. -/
theorem commandEffect_valid_is_feed :
    ∃ u : State, u.pos = s.pos ∧ u.idAcc = s.idAcc ∧ u.ckRx = s.ckRx ∧ commandEffect t true d s = feedStep d u := by
  cases t with
  | false => exact ⟨s, rfl, rfl, rfl, rfl⟩
  | true => exact ⟨takeStep s, rfl, rfl, rfl, rfl⟩

/-- `frame_ok` after a command (10_state.md R27). -/
theorem commandEffect_frameOk : (commandEffect t v d s).frameOk = (v && (commandEffect t v d s).flag) := by
  cases v with
  | false => cases t <;> rfl
  | true =>
    obtain ⟨u, -, -, -, hu⟩ := commandEffect_valid_is_feed t d s
    simp [hu]

/-- A command that feeds nothing leaves `pos` (R22). -/
theorem commandEffect_invalid_pos : (commandEffect t false d s).pos = s.pos := by
  cases t <;> rfl

/-- Of the commands that feed nothing, only a NOP leaves the flag at 1 (R26). -/
theorem commandEffect_invalid_flag_iff : (commandEffect t false d s).flag = true ↔ t = false ∧ s.flag = true := by
  cases t <;> simp

/-- A command that feeds leaves the flag at 1 only by an accepting END (40_feed.md R107). -/
theorem commandEffect_valid_flag_iff :
    (commandEffect t true d s).flag = true ↔ s.pos = 13#4 ∧ d = 0x03#8 ∧ s.ckRx = xor5 s.idAcc := by
  obtain ⟨u, hpos, hid, hck, hu⟩ := commandEffect_valid_is_feed t d s
  rw [hu, feedStep_flag_iff, hpos, hid, hck]

/-! ## The position after a FEED (R22) -/

variable {s}

theorem feedStep_pos_of_start (h : s.pos = 0#4) : (feedStep 0x02#8 s).pos = 1#4 := by
  rw [feedStep_start h]

theorem feedStep_pos_of_skip {b : Byte} (h : s.pos = 0#4) (hb : b ≠ 0x02#8) : (feedStep b s).pos = 0#4 := by
  rw [feedStep_skip h hb, State.fedFalse_pos, h]

/-- The ten NIB rows, CK_HI and CK_LO each advance by one. -/
theorem feedStep_pos_advances (h1 : 1 ≤ s.pos.toNat) (h12 : s.pos.toNat ≤ 12) :
    (feedStep b s).pos.toNat = s.pos.toNat + 1 := by
  obtain h | h | h : s.pos.toNat ≤ 10 ∨ s.pos.toNat = 11 ∨ s.pos.toNat = 12 := by omega
  · rw [feedStep_nib b h1 h (BitVec.ofNat_toNat 4 s.pos).symm, BitVec.toNat_ofNat]
    omega
  · rw [feedStep_ckHi b (BitVec.eq_of_toNat_eq h), h]
    rfl
  · rw [feedStep_ckLo b (BitVec.eq_of_toNat_eq h), h]
    rfl

theorem feedStep_pos_of_end (h : s.pos = 13#4) : (feedStep b s).pos = 0#4 := by
  rw [feedStep_end b h]

/-! ## What an edge runs (R31) -/

theorem clockEdge_reset {e : EdgeInput} (h : e.rst = true) : clockEdge e s = .next (resetStep s) := by
  simp [clockEdge, h]

theorem clockEdge_command {e : EdgeInput} (h : e.rst = false) : clockEdge e s = exec (decodeCommand e.cmd) s := by
  simp [clockEdge, h]

theorem clockEdge_completes (e : EdgeInput) : ∃ s', clockEdge e s = .next s' := by
  cases h : e.rst with
  | false => exact ⟨_, (clockEdge_command h).trans (exec_command ..)⟩
  | true => exact ⟨_, clockEdge_reset h⟩

/-- A step is the edge of the first input in the list, on the state with that input taken from it. -/
theorem step_of_pending {e : EdgeInput} {rest : List EdgeInput} (h : s.pending = e :: rest) :
    step s = clockEdge e { s with pending := rest } := by
  rw [step, nextEdge_of_pending s h, takeEdge_of_pending s h]

/-- The decoder of numbers reads a command word as the command decode does (30_encoding.md R74). -/
theorem decode_cmd10_toNat (w : CmdWord) : decode .cmd10 w.toNat = .ok (decodeCommand w) := by
  simp [decode, w.isLt]

end StateFamily

/-! ## The statements -/

/-- Settles O40: FEED and TAKE_FEED copy the flag to `frame_ok`, the other two commands clear it. -/
theorem frameOkShowsLastFeed : Obligations.FrameOkShowsLastFeed := by
  intro t v d s
  exact ⟨_, exec_command s t v d, commandEffect_frameOk t v d s⟩

/-- Settles O41: a command that feeds is a FEED at the `pos` before it, and FEED's successor of each position is known. -/
theorem posSequence : Obligations.PosSequence := by
  intro t v d s
  refine ⟨_, exec_command s t v d, ?_⟩
  cases v with
  | false => simp [commandEffect_invalid_pos]
  | true =>
    obtain ⟨u, hpos, -, -, hu⟩ := commandEffect_valid_is_feed t d s
    rw [hu, ← hpos]
    refine ⟨nofun, fun _ h0 hd => ?_, fun _ h0 hd => feedStep_pos_of_skip h0 hd,
      fun _ h1 h12 => feedStep_pos_advances d h1 h12, fun _ h13 => feedStep_pos_of_end d h13⟩
    rw [hd]
    exact feedStep_pos_of_start h0

/-- Settles O42: with `in_valid` the flag is the gate's answer, without it only a NOP keeps the flag. -/
theorem flagRisesOnlyOnAcceptance : Obligations.FlagRisesOnlyOnAcceptance := by
  intro t v d s
  refine ⟨_, exec_command s t v d, ?_⟩
  cases v with
  | false => simp [commandEffect_invalid_flag_iff]
  | true => simp [commandEffect_valid_flag_iff]

/-- Settles O12: the step is the edge of the list's first input, which is the reset or one of the four commands. -/
theorem stepRunsPresentedCommand : Obligations.StepRunsPresentedCommand := by
  intro s e rest hpend
  rw [step_of_pending hpend]
  refine ⟨clockEdge_completes e, clockEdge_reset, fun i hrst hdec => ?_, fun hrst htake hvalid => ?_⟩
  · rw [decode_cmd10_toNat] at hdec
    rw [clockEdge_command hrst, EdgeInput.cmd, Except.ok.inj hdec]
  · rw [clockEdge_command hrst, EdgeInput.cmd, htake, hvalid, decodeCommand_fields]

/-- Settles O45: the ports are the registers by definition, and a TAKE's response is chosen by the flag, which is `ready`. -/
theorem takeResponseIsOnThePorts : Obligations.TakeResponseIsOnThePorts := by
  refine ⟨fun s => rfl, fun s d => ⟨_, exec_take s d, takeStep_flag s, fun hready => ?_, fun hready => ?_⟩⟩
  · rw [takeStep_responses, takeResponse_ready hready]
    rfl
  · rw [takeStep_responses, takeResponse_none hready]

end Sys2Proof.Machine

/-! Proofs of the family 30_encoding.md: what a command word decodes to (R74), what the data bits of NOP and TAKE do (R76),
the order of the arm table (R77) and where a nibble is placed (R83). -/

namespace Sys2Proof.Machine

section EncodingFamily

variable (t v : Bool) (p : Pos) (b d : Byte) (s : State)

/-! ## Command words (R73, R74) -/

/-- A command word written as its two selector bits before D. -/
theorem commandWord_eq_append : commandWord t v d = (BitVec.ofBool t ++ BitVec.ofBool v) ++ d :=
  (BitVec.append_assoc (x₁ := BitVec.ofBool t) (x₂ := BitVec.ofBool v) (x₃ := d)).symm

theorem isCommand_decodeCommand (w : CmdWord) : isCommand (decodeCommand w) = true := by
  rw [← commandWord_fields w, decodeCommand_fields]
  cases w.getLsbD 9 <;> cases w.getLsbD 8 <;> rfl

/-- The decoder of numbers on every number of at most 10 bits. -/
theorem decode_cmd10_of_lt {n : Nat} (h : n < 1024) : decode .cmd10 n = .ok (decodeCommand (BitVec.ofNatLT n h)) :=
  decode_cmd10_toNat (BitVec.ofNatLT n h)

/-! ## The data bits of a command that feeds nothing (R76) -/

theorem commandEffect_invalid_data (d' : Byte) : commandEffect t false d s = commandEffect t false d' s := by
  cases t <;> rfl

/-- An edge is the reset or the effect of the command on its ports (10_state.md R31). -/
theorem clockEdge_eq (e : EdgeInput) :
    clockEdge e s = .next (if e.rst then resetStep s else commandEffect e.take e.inValid e.inData s) := by
  cases hrst : e.rst with
  | true => simp [clockEdge_reset hrst]
  | false => simp [clockEdge_command hrst, EdgeInput.cmd, exec_command]

theorem clockEdge_invalid_data {e : EdgeInput} (h : e.inValid = false) :
    clockEdge { e with inData := d } s = clockEdge e s := by
  simp only [clockEdge_eq, h, commandEffect_invalid_data e.take d s e.inData]

/-! ## The rows of the arm table (R77) -/

theorem armWord_inj {p p' : Pos} {b b' : Byte} : armWord p b = armWord p' b' ↔ p = p' ∧ b = b' := by
  refine ⟨fun h => ⟨?_, ?_⟩, fun ⟨hp, hb⟩ => hp ▸ hb ▸ rfl⟩
  · rw [← armWord_pos p b, h, armWord_pos]
  · rw [← armWord_byte p b, h, armWord_byte]

/-- The first row's mask covers the whole word: it takes the start marker at position 0 and nothing else. -/
theorem startRow_matches_iff :
    (OpcodeRow.mk .arm12 0xFFF 0x002).matches (.arm (armWord p b)) = true ↔ p = 0#4 ∧ b = Config.startMarker := by
  have hmask : (armWord p b).toNat &&& 0xFFF = (armWord p b).toNat := by
    rw [Nat.and_two_pow_sub_one_eq_mod _ 12, Nat.mod_eq_of_lt (armWord p b).isLt]
  have hstart : (0x002 : Nat) = (armWord 0#4 Config.startMarker).toNat := rfl
  rw [← armWord_inj, ← BitVec.toNat_inj, ← hstart]
  simp [OpcodeRow.matches, InstrWord.format, InstrWord.toNat, hmask]

/-- Every other row's mask lies in the position field, so the byte has no part in whether it matches. -/
theorem positionRow_matches {mask : Nat} (pattern : Nat) (hmask : 0xF00 &&& mask = mask) :
    (OpcodeRow.mk .arm12 mask pattern).matches (.arm (armWord p b)) = (p.toNat * 256 &&& mask == pattern) := by
  have hword : (armWord p b).toNat &&& mask = p.toNat * 256 &&& mask := by
    rw [← arm_in_row p b, Nat.and_assoc, hmask]
  simp [OpcodeRow.matches, InstrWord.format, InstrWord.toNat, hword]

/-- The table and the decoder choose the same arm. -/
theorem firstMatchingArm_eq_selectArm : firstMatchingArm p b = some (selectArm p b) := by
  by_cases hstart : p = 0#4 ∧ b = Config.startMarker
  · obtain ⟨rfl, rfl⟩ := hstart
    rfl
  · have hrow : (OpcodeRow.mk .arm12 0xFFF 0x002).matches (.arm (armWord p b)) = false := by
      rw [Bool.eq_false_iff, ne_eq, startRow_matches_iff]
      exact hstart
    obtain rfl | rfl | rfl | rfl | rfl | rfl | rfl | rfl | rfl | rfl | rfl | rfl | rfl | rfl | rfl | rfl := pos_cases p
    · have hb : b ≠ Config.startMarker := fun hb => hstart ⟨rfl, hb⟩
      simp [firstMatchingArm, armTable, hrow, positionRow_matches, selectArm_skip b hb]
    all_goals simp [firstMatchingArm, armTable, hrow, positionRow_matches]

/-- The instruction of the selected arm means the FEED step by that row. -/
theorem exec_armInstr : exec (armInstr p b) s = feedByRow p (selectArm p b) b s := by
  obtain rfl | rfl | rfl | rfl | rfl | rfl | rfl | rfl | rfl | rfl | rfl | rfl | rfl | rfl | rfl | rfl := pos_cases p
  · by_cases hb : b = Config.startMarker
    · rw [hb]
      rfl
    · rw [armInstr, selectArm_skip b hb]
      rfl
  all_goals rfl

/-- A FEED and the instruction of the arm it selects are one step. -/
theorem exec_armInstr_selected : exec (armInstr s.pos b) s = exec (.feed b) s := by
  rw [exec_armInstr, feedByRow_selected rfl rfl, exec_feed]

/-! ## The place of a nibble (R83) -/

theorem contribution_getLsbD (n k : Nat) :
    (contribution n b).getLsbD k = (decide (k < 40 ∧ nibShift n ≤ k) && (hexNib b).getLsbD (k - nibShift n)) := by
  rw [contribution, BitVec.getLsbD_shiftLeft, BitVec.getLsbD_setWidth]
  grind

end EncodingFamily

/-! ## The statements -/

/-- Settles O5: the first row alone looks at the byte, the others split the positions, as `selectArm` does. -/
theorem armIsFirstMatchingRow : Obligations.ArmIsFirstMatchingRow := by
  refine ⟨firstMatchingArm_eq_selectArm, fun s b a ha => ?_⟩
  rw [firstMatchingArm_eq_selectArm] at ha
  rw [← Option.some.inj ha]
  exact (exec_armInstr_selected b s).symm

/-- Settles O9: inside its field the nibble's own bit, above the field no bit of the nibble, below it none shifted in. -/
theorem nibblePlacement : Obligations.NibblePlacement := by
  intro p b k hp1 hp10
  rw [contribution_getLsbD, nibShift]
  split
  · next hfield =>
    have hin : k < 40 ∧ (10 - p) * 4 ≤ k := by omega
    simp [hin]
  · next hfield =>
    obtain hbelow | habove : k < (10 - p) * 4 ∨ 4 ≤ k - (10 - p) * 4 := by omega
    · simp [hbelow]
    · simp [BitVec.getLsbD_of_ge _ _ habove]

/-- Settles O1: each selector with D is the command word of its two bits, and a number below 1024 is a command word. -/
theorem commandWordDecode : Obligations.CommandWordDecode := by
  have hdecode (t v : Bool) (d : Byte) := commandWord_eq_append t v d ▸ decodeCommand_fields t v d
  exact ⟨hdecode false false, hdecode false true, hdecode true false, hdecode true true,
    fun n hn => ⟨_, decode_cmd10_of_lt hn, isCommand_decodeCommand _⟩⟩

/-- Settles O6: a reset edge reads no data bits, and NOP and TAKE ignore the ones they carry. -/
theorem dataBitsIgnoredWithoutValid : Obligations.DataBitsIgnoredWithoutValid := by
  refine ⟨fun n hn => ⟨_, decode_cmd10_of_lt hn⟩, fun e d s hvalid => ⟨?_, clockEdge_completes e⟩⟩
  exact clockEdge_invalid_data d s hvalid

end Sys2Proof.Machine

/-! Proofs of the family 40_feed.md: a FEED is the step of the row its position and byte select (R100, R101), and what each
row leaves (R102 to R108). -/

namespace Sys2Proof.Machine

section FeedFamily

variable {s t : State} {b : Byte} {p : Pos} {i : Instr}

/-! ## Rows and FEED -/

/-- A FEED clears the flag before anything reads it (R101), so the flag it found has no part in what it does. -/
theorem feedStep_ignores_flag (b : Byte) (s : State) (f : Bool) : feedStep b { s with flag := f } = feedStep b s := rfl

/-- The instruction of the row that `{pos, InByte}` selects and a FEED of the byte are one step, to FEED's next state. -/
theorem exec_selectedRow (hpos : s.pos = p) (hrow : armInstr p b = i) (hfeed : feedStep b s = t) :
    exec i s = .next t ∧ exec (.feed b) s = exec i s := by
  have hstep : exec i s = exec (.feed b) s := by rw [← hrow, ← hpos, exec_armInstr_selected]
  exact ⟨by rw [hstep, exec_feed, hfeed], hstep.symm⟩

theorem armInstr_skip (hb : b ≠ 0x02#8) : armInstr 0#4 b = .feedIdleSkip b := by
  rw [armInstr, selectArm_skip b hb]
  rfl

theorem armInstr_recover (u : UnusedPos) (b : Byte) : armInstr u.pos b = .feedRecover u b := by
  cases u <;> rfl

theorem unusedPos_pos_eq (u : UnusedPos) : u.pos = 14#4 ∨ u.pos = 15#4 := by
  cases u with
  | p14 => exact .inl rfl
  | p15 => exact .inr rfl

end FeedFamily

/-! ## The statements -/

/-- Settles O23: the selected row and FEED are one step, and only END's gate sets the flag that step cleared. -/
theorem feedTakesSelectedArm : Obligations.FeedTakesSelectedArm := by
  intro s b
  refine ⟨feedStep b s, exec_feed s b, (exec_selectedRow rfl rfl rfl).1, feedStep_responses s b, feedStep_frameOk s b,
    fun hflag => ?_, fun f => ?_⟩
  · obtain ⟨hpos, -, -⟩ := (feedStep_flag_iff s b).mp hflag
    exact hpos
  · rw [exec_feed, feedStep_ignores_flag]

/-- Settles O27: the ten rows listed are those the positions 1 to 10 select, whatever the byte. -/
theorem nibResult : Obligations.NibResult := by
  intro s b p i hmem hpos
  change (p, i) ∈ (List.range' 1 10).map fun q => (q, armInstr (BitVec.ofNat 4 q) b) at hmem
  obtain ⟨q, hq, heq⟩ := List.mem_map.mp hmem
  obtain ⟨rfl, hrow⟩ := Prod.mk.inj heq
  obtain ⟨h1, h10⟩ := List.mem_range'_1.mp hq
  exact exec_selectedRow hpos hrow (feedStep_nib b h1 (by omega) hpos)

/-- Settles O30: the flag after END is the gate's answer. -/
theorem endResult : Obligations.EndResult := by
  intro s b hpos
  exact ⟨frameAccepted b s.ckRx s.idAcc, frameAccepted_iff b s.ckRx s.idAcc,
    exec_selectedRow hpos rfl (feedStep_end b hpos)⟩

/-- Settles O25: at position 0 the start marker selects IDLE_START. -/
theorem idleStartResult : Obligations.IdleStartResult :=
  fun _ hpos => exec_selectedRow hpos rfl (feedStep_start hpos)

/-- Settles O26: at position 0 every other byte selects IDLE_SKIP. -/
theorem idleSkipResult : Obligations.IdleSkipResult :=
  fun _ _ hpos hb => exec_selectedRow hpos (armInstr_skip hb) (feedStep_skip hpos hb)

/-- Settles O28: position 11 selects CK_HI. -/
theorem ckHiResult : Obligations.CkHiResult :=
  fun _ b hpos => exec_selectedRow hpos rfl (feedStep_ckHi b hpos)

/-- Settles O29: position 12 selects CK_LO. -/
theorem ckLoResult : Obligations.CkLoResult :=
  fun _ b hpos => exec_selectedRow hpos rfl (feedStep_ckLo b hpos)

/-- Settles O31: both unused positions select RECOVER, which names the one it is taken at. -/
theorem recoverResult : Obligations.RecoverResult :=
  fun _ b p hpos => exec_selectedRow hpos (armInstr_recover p b) (feedStep_recover b (hpos ▸ unusedPos_pos_eq p))

end Sys2Proof.Machine

/-! Proofs of the family 41_take.md: what a TAKE leaves with and without a ready identifier (R130, R131), the order within
TAKE_FEED (R133), and how NOPs wait for the command after them (R134). -/

namespace Sys2Proof.Machine

section TakeFamily

variable {s : State}

/-! ## TAKE by the flag it finds (R130) -/

theorem takeStep_ready (h : s.flag = true) :
    takeStep s =
      { s with flag := false, frameOk := false, responses := s.responses ++ [.take (some s.idAcc)] } := by
  rw [takeStep_eq, takeResponse_ready h]

/-- Where the flag is 0 already, clearing it changes nothing (R131). -/
theorem takeStep_none (h : s.flag = false) :
    takeStep s = { s with frameOk := false, responses := s.responses ++ [.take none] } := by
  rw [takeStep_eq, takeResponse_none h, ← h]

/-! ## NOPs before other commands (R134) -/

/-- TAKE does not read `frame_ok`, the one register a NOP writes. -/
theorem takeStep_nopStep (s : State) : takeStep (nopStep s) = takeStep s := rfl

/-- Commands to which one NOP before them makes no difference run after any number of NOPs as they run at once. -/
theorem runCommands_nops_append {is : List Instr} (h : ∀ u, runCommands is (nopStep u) = runCommands is u)
    (d : Byte) (n : Nat) (s : State) : runCommands (List.replicate n (.nop d) ++ is) s = runCommands is s := by
  induction n generalizing s with
  | zero => rfl
  | succ n ih => rw [List.replicate_succ, List.cons_append, runCommands_nop, ih, h]

theorem runCommands_nops_take (d d' : Byte) (n : Nat) (s : State) :
    runCommands (List.replicate n (.nop d) ++ [.take d']) s = .next (takeStep s) := by
  have habsorbs (u : State) : runCommands [.take d'] (nopStep u) = runCommands [.take d'] u := by
    rw [runCommands_take, runCommands_take, takeStep_nopStep]
  rw [runCommands_nops_append habsorbs, runCommands_take, runCommands_nil]

end TakeFamily

/-! ## The statements -/

/-- Settles O38: a NOP changes only `frame_ok`, which the TAKE after the NOPs does not read. -/
theorem nopKeepsReadyIdentifier : Obligations.NopKeepsReadyIdentifier :=
  ⟨fun s d => exec_nop s d, fun s d d' n hflag => by rw [runCommands_nops_take, takeStep_ready hflag]⟩

/-- Settles O34: the flag TAKE finds chooses its response. -/
theorem takeResult : Obligations.TakeResult := by
  refine fun s d => ⟨fun hflag => ?_, fun hflag => ?_⟩
  · rw [exec_take, takeStep_ready hflag]
  · rw [exec_take, takeStep_eq, takeResponse_none hflag]

/-- Settles O35: with the flag at 0, clearing it changes nothing. -/
theorem takeWithNoneReady : Obligations.TakeWithNoneReady := by
  intro s d hflag
  rw [exec_take, takeStep_none hflag]

/-- Settles O37: TAKE_FEED's FEED appends its response to the state that TAKE left, which holds TAKE's. -/
theorem takeFeedIsTakeThenFeed : Obligations.TakeFeedIsTakeThenFeed := by
  intro s b d
  refine ⟨takeStep s, feedStep b (takeStep s), exec_take s d, exec_feed _ b, exec_takeFeed s b, ?_⟩
  rw [feedStep_responses, takeStep_responses, List.append_assoc, List.singleton_append, State.takeResponse]

end Sys2Proof.Machine

/-! Proofs of the family 60_exceptions.md: every command completes (R150), the two drops at position 13 are one (R152), and a
partial frame waits through any number of NOPs (R158). -/

namespace Sys2Proof.Machine

section ExceptionFamily

variable {s : State}

/-! ## Every command word has its effect (R150) -/

theorem exec_decodeCommand (w : CmdWord) (s : State) :
    exec (decodeCommand w) s =
      .next (commandEffect (w.getLsbD 9) (w.getLsbD 8) (w.extractLsb' 0 8) s) := by
  rw [← exec_command, commandWord_fields]

/-! ## The drop at position 13 (R152) -/

theorem frameAccepted_of_mismatch {ck : Checksum} {v : Ident} (b : Byte) (h : ck ≠ xor5 v) :
    frameAccepted b ck v = false := by
  simp [frameAccepted, h]

/-- Where the checksum does not match, END drops the frame whatever the byte, and what it leaves does not depend on it. -/
theorem feedStep_drop (b : Byte) (hpos : s.pos = 13#4) (hck : s.ckRx ≠ xor5 s.idAcc) :
    feedStep b s = { s.fedFalse with pos := 0#4 } := by
  rw [feedStep_end b hpos, frameAccepted_of_mismatch b hck]
  rfl

/-! ## NOPs within a frame (R158) -/

/-- NOPs write no register but `frame_ok`. -/
theorem runCommands_nops (d : Byte) (n : Nat) (s : State) :
    ∃ f, runCommands (List.replicate n (.nop d)) s = .next (s.setFrameOk f) := by
  induction n generalizing s with
  | zero => exact ⟨s.frameOk, rfl⟩
  | succ n ih =>
    obtain ⟨f, hf⟩ := ih (nopStep s)
    exact ⟨f, hf⟩

/-- No arm reads `frame_ok`, and every FEED overwrites it. -/
theorem feedWithArm_nopStep (a : Arm) (b : Byte) (s : State) : feedWithArm a b (nopStep s) = feedWithArm a b s := by
  cases a with
  | endMark =>
    rw [feedWithArm_endMark, feedWithArm_endMark]
    rfl
  | _ => rfl

theorem feedStep_nopStep (b : Byte) (s : State) : feedStep b (nopStep s) = feedStep b s :=
  feedWithArm_nopStep (selectArm s.pos b) b s

theorem runCommands_nops_feed (d b : Byte) (n : Nat) (s : State) :
    runCommands (List.replicate n (.nop d) ++ [.feed b]) s = .next (feedStep b s) := by
  have habsorbs (u : State) : runCommands [.feed b] (nopStep u) = runCommands [.feed b] u := by
    rw [runCommands_feed, runCommands_feed, feedStep_nopStep]
  rw [runCommands_nops_append habsorbs, runCommands_feed, runCommands_nil]

end ExceptionFamily

/-! ## The statements -/

/-- Settles O14: a command word has its effect, and a step is the edge of the next inputs, which completes. -/
theorem everyCommandCompletes : Obligations.EveryCommandCompletes :=
  ⟨fun w s => ⟨_, exec_decodeCommand w s⟩, fun s => clockEdge_completes s.nextEdge⟩

/-- Settles O39: the NOPs write only `frame_ok`, which the FEED after them does not read. -/
theorem partialFrameWaitsForEver : Obligations.PartialFrameWaitsForEver := by
  intro s d b n
  obtain ⟨f, hf⟩ := runCommands_nops d n s
  exact ⟨⟨s.setFrameOk f, hf, rfl, rfl, rfl⟩, feedStep b s, runCommands_nops_feed d b n s, exec_feed s b⟩

/-- Settles O46: with the checksum mismatched, both bytes take END to the one state of a dropped frame. -/
theorem dropsIndistinguishable : Obligations.DropsIndistinguishable := by
  intro s b hpos hck _
  refine ⟨{ s.fedFalse with pos := 0#4 }, ?_, ?_⟩
  · rw [exec_feed, feedStep_drop b hpos hck]
  · rw [exec_feed, feedStep_drop 0x03#8 hpos hck]

end Sys2Proof.Machine

/-! Proofs of the statements on encodings and operands: the decoder and the encoder are inverse (30_encoding.md R73, R74,
R77), a placed word is what runs next (logs 5, 6), the checksum's order (R54) and the accumulator's width (R7). -/

namespace Sys2Proof.Machine

section WordFamily

variable {n : Nat}

/-! ## Decoder and encoder -/

/-- A command word is the word of the command it decodes to, its bits D included (log 18). -/
theorem encode_decodeCommand (t v : Bool) (d : Byte) :
    encode (decodeCommand (commandWord t v d)) = .cmd (commandWord t v d) := by
  rw [decodeCommand_fields]
  cases t <;> cases v <;> rfl

theorem wf_of_isCommand {i : Instr} (h : isCommand i = true) : i.wf = true := by
  obtain ⟨_, rfl⟩ | ⟨_, rfl⟩ | ⟨_, rfl⟩ | ⟨_, rfl⟩ := command_cases h <;> rfl

/-- The row a position and byte select is well formed, and its word is that position and byte: IDLE_SKIP is selected only
where the byte is no start marker, and RECOVER keeps which of its two positions it was. -/
theorem encode_armInstr (p : Pos) (b : Byte) :
    encode (armInstr p b) = .arm (armWord p b) ∧ (armInstr p b).wf = true := by
  obtain rfl | rfl | rfl | rfl | rfl | rfl | rfl | rfl | rfl | rfl | rfl | rfl | rfl | rfl | rfl | rfl := pos_cases p
  · by_cases hb : b = Config.startMarker
    · rw [hb]
      exact ⟨rfl, rfl⟩
    · rw [armInstr_skip hb]
      exact ⟨rfl, bne_iff_ne.mpr hb⟩
  all_goals exact ⟨rfl, rfl⟩

/-! ## The host's placed word (logs 5, 6) -/

theorem tableWord_command (w : CmdWord) (h : n = 10 ∨ n = 16) : tableWord n w.toNat = some (.cmd w) := by
  have hlt : w.toNat < 1024 := w.isLt
  obtain rfl | rfl := h <;> simp [tableWord, tableWordIsArm, hlt]

theorem tableWord_arm (a : ArmWord) (h : n = 12 ∨ n = 16 ∧ 1024 ≤ a.toNat) : tableWord n a.toNat = some (.arm a) := by
  obtain rfl | ⟨rfl, hge⟩ := h
  · simp [tableWord, tableWordIsArm]
  · simp [tableWord, tableWordIsArm, hge]

theorem step_drive (s : State) (e : EdgeInput) : step (s.drive e) = clockEdge e s :=
  step_of_pending rfl

/-- The edge that presents a command word runs it. -/
theorem step_drive_ofCmd (s : State) (w : CmdWord) : step (s.drive (.ofCmd w)) = exec (decodeCommand w) s := by
  rw [step_drive, clockEdge_command rfl]
  exact congrArg (fun c => exec (decodeCommand c) s) (commandWord_fields w)

/-! ## Widening -/

/-- A nibble in its place is the same number in 64 bits: no bit of it lies past bit 39. -/
theorem contribution_setWidth (b : Byte) (hn : 1 ≤ n) :
    (contribution n b).setWidth 64 = (hexNib b).setWidth 64 <<< nibShift n := by
  apply BitVec.eq_of_getLsbD_eq
  intro k hk
  have hshift : nibShift n ≤ 36 := by
    rw [nibShift]
    omega
  rw [BitVec.getLsbD_setWidth, contribution_getLsbD, BitVec.getLsbD_shiftLeft, BitVec.getLsbD_setWidth]
  obtain hlow | hhigh : k < 40 ∨ 4 ≤ k - nibShift n := by omega
  · grind
  · simp [BitVec.getLsbD_of_ge _ _ hhigh]

end WordFamily

/-! ## The statements -/

/-- Settles O3: the decoder reads back the fields the encoder wrote, and they select the instruction's own row. -/
theorem decodeOfEncodeIsIdentity : Obligations.DecodeOfEncodeIsIdentity := by
  intro i hwf
  cases i with
  | nop d => exact decodeCommand_fields false false d
  | feed b => exact decodeCommand_fields false true b
  | take d => exact decodeCommand_fields true false d
  | takeFeed b => exact decodeCommand_fields true true b
  | feedIdleSkip b => exact (decodeArmWord_fields 0#4 b).trans (armInstr_skip (bne_iff_ne.mp hwf))
  | feedRecover p b => exact (decodeArmWord_fields p.pos b).trans (armInstr_recover p b)
  | _ => exact decodeArmWord_fields ..

/-- Settles O4: a word is made of its fields, which the instruction it decodes to carries. -/
theorem encodeOfDecodeIsIdentity : Obligations.EncodeOfDecodeIsIdentity := by
  intro w
  cases w with
  | cmd w =>
    refine ⟨?_, wf_of_isCommand (isCommand_decodeCommand w)⟩
    rw [← commandWord_fields w]
    exact encode_decodeCommand ..
  | arm a =>
    rw [← armWord_fields a, decodeWord, decodeArmWord_fields]
    exact encode_armInstr ..

/-- Settles O10: XOR commutes, so a permutation of the bytes may be read in the order `xor5` combines them. -/
theorem checksumOrderIrrelevant : Obligations.ChecksumOrderIrrelevant := by
  intro v l hperm
  rw [(hperm.trans (List.reverse_perm _).symm).foldl_op_eq]
  exact congrArg (· ^^^ idByte v 3 ^^^ idByte v 2 ^^^ idByte v 1 ^^^ idByte v 0) BitVec.zero_xor

/-- Settles O11: widening commutes with OR, and the nibble in its place fits in 40 bits. -/
theorem wideAccumulatorAgrees : Obligations.WideAccumulatorAgrees := by
  intro p b v hp1 _
  rw [BitVec.setWidth_or, contribution_setWidth b hp1, nibShift]

/-- Settles O13: a command word drives its own edge, an arm word a FEED of its byte at its position, which selects the
word's row. -/
theorem placedWordIsRunNext : Obligations.PlacedWordIsRunNext := by
  refine ⟨fun s n w hn => ⟨?_, ?_⟩, fun s n a hn => ⟨?_, ?_⟩⟩
  · rw [decodeTableWord, tableWord_command w hn]
    rfl
  · rw [State.withFetchWord, tableWord_command w hn]
    exact step_drive_ofCmd s w
  · rw [decodeTableWord, tableWord_arm a hn]
    rfl
  · rw [State.withFetchWord, tableWord_arm a hn, State.presentWord, step_drive_ofCmd, decodeCommand_fields]
    exact (exec_armInstr_selected _ (s.setPos (a.extractLsb' 8 4))).symm

end Sys2Proof.Machine

/-! Proofs of the statements on what every step keeps: the register invariant (10_state.md R36 items 1 to 4), so that
positions 14 and 15 are never reached (R23), and the two facts about the recorded responses (R36 item 5, 41_take.md
R132). -/

namespace Sys2Proof.Machine

section InvariantFamily

variable {s t : State} {p k : Nat}

/-! ## The register invariant (R36 items 1 to 4) -/

/-- Outside a frame the invariant says only that a ready identifier has its checksum beside it. -/
theorem inv_of_idle (hpos : s.pos = 0#4) (hready : s.flag = true → s.ckRx = xor5 s.idAcc) : s.Inv := by
  simpa [State.Inv, State.PosInFrame, State.UnfilledSlotsZero, State.ChecksumUnfilledZero, State.ReadyFrameValid, hpos]
    using hready

/-- The invariant reads four registers, and holds for a flag of 0 where it holds for 1. -/
theorem inv_of_registers (h : s.Inv) (hpos : t.pos = s.pos) (hid : t.idAcc = s.idAcc) (hck : t.ckRx = s.ckRx)
    (hflag : t.flag = true → s.flag = true) : t.Inv := by
  obtain ⟨hframe, hslots, hzero, hready⟩ := h
  simp only [State.Inv, State.PosInFrame, State.UnfilledSlotsZero, State.ChecksumUnfilledZero, State.ReadyFrameValid,
    hpos, hid, hck]
  exact ⟨hframe, hslots, hzero, fun ht => hready (hflag ht)⟩

/-- `contribution p b` has no bit below its slot (30_encoding.md R83). -/
theorem contribution_below (b : Byte) (h : k < nibShift p) : (contribution p b).getLsbD k = false := by
  rw [contribution_getLsbD]
  grind

/-- NIB fills the highest unfilled slot; those below it stay zero, and so does the checksum. -/
theorem inv_nib (b : Byte) (h : s.Inv) (h1 : 1 ≤ p) (h10 : p ≤ 10) (hpos : s.pos = BitVec.ofNat 4 p)
    (htpos : t.pos = BitVec.ofNat 4 (p + 1)) (hid : t.idAcc = s.idAcc ||| contribution p b) (hck : t.ckRx = s.ckRx)
    (hflag : t.flag = false) : t.Inv := by
  obtain ⟨-, hslots, ⟨hzero, -⟩, -⟩ := h
  have hp : s.pos.toNat = p := by
    rw [hpos, BitVec.toNat_ofNat]
    omega
  have htp : t.pos.toNat = p + 1 := by
    rw [htpos, BitVec.toNat_ofNat]
    omega
  rw [State.UnfilledSlotsZero, hp] at hslots
  rw [hp] at hzero
  have hckzero : t.ckRx = 0x00#8 := hck.trans (hzero h1 (by omega))
  refine ⟨by omega, fun _ _ k hk => ?_, ⟨fun _ _ => hckzero, fun _ => by rw [hckzero]; rfl⟩, by simp [hflag]⟩
  rw [hid, BitVec.getLsbD_or, hslots h1 (by omega) k (by omega), contribution_below b (by rw [nibShift]; omega)]
  rfl

/-- CK_HI leaves the checksum's low half zero. -/
theorem inv_ckHi (b : Byte) (hpos : t.pos = 12#4) (hck : t.ckRx = checksumHigh b) (hflag : t.flag = false) : t.Inv := by
  have hlow : (checksumHigh b).extractLsb' 0 4 = 0#4 := BitVec.extractLsb'_append_eq_right
  simp [State.Inv, State.PosInFrame, State.UnfilledSlotsZero, State.ChecksumUnfilledZero, State.ReadyFrameValid, hpos,
    hck, hflag, hlow]

theorem inv_feedStep (b : Byte) (h : s.Inv) : (feedStep b s).Inv := by
  obtain ⟨-, -, hstep⟩ | ⟨-, -, hstep⟩ | ⟨p, h1, h10, hpos, hstep⟩ | ⟨-, hstep⟩ | ⟨-, hstep⟩ | ⟨-, hstep⟩ | ⟨-, hstep⟩ :=
    feedStep_cases s b <;> rw [hstep]
  · simp [State.Inv, State.PosInFrame, State.UnfilledSlotsZero, State.ChecksumUnfilledZero, State.ReadyFrameValid]
  · exact inv_of_registers h rfl rfl rfl nofun
  · exact inv_nib b h h1 h10 hpos rfl rfl rfl rfl
  · exact inv_ckHi b rfl rfl rfl
  · simp [State.Inv, State.PosInFrame, State.UnfilledSlotsZero, State.ChecksumUnfilledZero, State.ReadyFrameValid]
  · exact inv_of_idle rfl fun hgate => ((frameAccepted_iff b s.ckRx s.idAcc).mp hgate).2
  · exact inv_of_idle rfl nofun

theorem run_succ_of_next {M : Host.Core} {x y : M.State} (h : M.step x = .next y) (n : Nat) :
    M.run (n + 1) x = M.run n y := by
  rw [Host.Core.run, h]

/-- What a step keeps, a run of any number of steps keeps. -/
theorem run_keeps {P : State → Prop} (hkeep : ∀ s t, P s → step s = .next t → P t) (n : Nat) (h : P s)
    (hrun : core.run n s = .next t) : P t := by
  induction n generalizing s with
  | zero => exact Host.Outcome.next.inj hrun ▸ h
  | succ n ih =>
    obtain ⟨u, hu⟩ : ∃ u, step s = .next u := clockEdge_completes s.nextEdge
    exact ih (hkeep s u h hu) (run_succ_of_next (M := core) hu n ▸ hrun)

/-! ## The recorded responses -/

theorem takeResponse_isSome (s : State) : s.takeResponse.isSome = s.flag := by
  cases h : s.flag with
  | false => rw [takeResponse_none h]; rfl
  | true => rw [takeResponse_ready h]; rfl

/-- A FEED records whether the flag it leaves is 1, and a flag it clears only lowers the count of identifiers. -/
theorem surfacedAtMostOnce_feedStep (b : Byte) (h : s.SurfacedAtMostOnce) : (feedStep b s).SurfacedAtMostOnce := by
  rw [State.SurfacedAtMostOnce] at h ⊢
  rw [feedStep_responses, List.countP_append, List.countP_append]
  cases (feedStep b s).flag <;> simp <;> omega

/-- TAKE moves the waiting identifier to the responses. -/
theorem surfacedAtMostOnce_takeStep (h : s.SurfacedAtMostOnce) : (takeStep s).SurfacedAtMostOnce := by
  rw [State.SurfacedAtMostOnce] at h ⊢
  rw [takeStep_responses, List.countP_append, List.countP_append]
  have hcount : [Response.take s.takeResponse].countP Response.surfaces = s.flag.toNat := by
    rw [List.countP_singleton, surfaces_take, takeResponse_isSome]
    cases s.flag <;> rfl
  simpa [hcount] using h

@[simp] theorem lastFeedResult_append_feed (rs : List Response) (f : Bool) :
    lastFeedResult (rs ++ [.feed f]) = some f := by
  simp [lastFeedResult]

theorem readyAfterAcceptance_feedStep (b : Byte) (s : State) : (feedStep b s).ReadyAfterAcceptance := by
  intro hflag
  rw [feedStep_responses, lastFeedResult_append_feed, hflag]

end InvariantFamily

/-! ## The statements -/

/-- Settles O19: a reset edge and an END leave the block idle, NOP and TAKE write none of the registers the invariant
reads but the flag, and FEED keeps it row by row. -/
theorem stepKeepsRegisterInvariant : Obligations.StepKeepsRegisterInvariant := by
  intro s t hs ht
  have hedge : s.takeEdge.Inv := inv_of_registers hs rfl rfl rfl id
  obtain rfl | rfl | rfl | ⟨b, rfl⟩ | ⟨b, rfl⟩ := step_cases ht
  · exact inv_of_idle rfl nofun
  · exact inv_of_registers hedge rfl rfl rfl id
  · exact inv_of_registers hedge rfl rfl rfl nofun
  · exact inv_feedStep b hedge
  · exact inv_feedStep b (inv_of_registers hedge rfl rfl rfl nofun)

/-- Settles O20: an accepting FEED pays for the identifier it makes ready, which a TAKE surfaces once. -/
theorem stepKeepsSurfacedAtMostOnce : Obligations.StepKeepsSurfacedAtMostOnce := by
  intro s t hs ht
  have hedge : s.takeEdge.SurfacedAtMostOnce := hs
  obtain rfl | rfl | rfl | ⟨b, rfl⟩ | ⟨b, rfl⟩ := step_cases ht
  · exact (Nat.le_add_right _ _).trans hedge
  · exact hedge
  · exact surfacedAtMostOnce_takeStep hedge
  · exact surfacedAtMostOnce_feedStep b hedge
  · exact surfacedAtMostOnce_feedStep b (surfacedAtMostOnce_takeStep hedge)

/-- Settles O21: only a FEED leaves the flag at 1 anew, as its own result, and NOP keeps both flag and responses. -/
theorem readyMeansLastFeedAccepted : Obligations.ReadyMeansLastFeedAccepted := by
  refine ⟨fun s t hs ht => ?_, fun s t b hexec hflag => ?_⟩
  · obtain rfl | rfl | rfl | ⟨b, rfl⟩ | ⟨b, rfl⟩ := step_cases ht
    · exact nofun
    · exact hs
    · exact nofun
    · exact readyAfterAcceptance_feedStep b _
    · exact readyAfterAcceptance_feedStep b _
  · obtain hfeed | htakeFeed := hexec
    · rw [exec_feed] at hfeed
      rw [← Host.Outcome.next.inj hfeed, feedStep_flag_iff] at hflag
      exact ⟨hflag.1, hflag.2.1⟩
    · rw [exec_takeFeed] at htakeFeed
      rw [← Host.Outcome.next.inj htakeFeed, feedStep_flag_iff] at hflag
      exact ⟨hflag.1, hflag.2.1⟩

/-- Settles O22: the invariant holds at reset whatever the inputs, every run keeps it, and its first item bounds `pos`. -/
theorem unusedPositionsUnreachable : Obligations.UnusedPositionsUnreachable := by
  intro inputs n t hrun
  have hreset : State.Inv { State.reset with pending := inputs } := inv_of_idle rfl nofun
  obtain ⟨hframe, -⟩ := run_keeps stepKeepsRegisterInvariant n hreset hrun
  constructor <;> intro hpos <;> simp [State.PosInFrame, hpos] at hframe

end Sys2Proof.Machine

/-! Proofs of the statements on single commands: FEED's result (40_feed.md R110), where an arm row runs (log 4), NIB as a
field insert (10_state.md R36), the writers of the accumulators (R21) and the handoff window (70_reset_and_hazards.md
R184). -/

namespace Sys2Proof.Machine

section InstructionFamily

variable {s t : State} {p : Pos} {a : Arm} {b : Byte} {i : Instr} {k n : Nat}

/-! ## Nibble slots (10_state.md R24) -/

theorem idNibble_or (v w : Ident) (k : Nat) : idNibble (v ||| w) k = idNibble v k ||| idNibble w k :=
  BitVec.extractLsb'_or

/-- `contribution n b` is the nibble in slot 10 - n and zero in every other slot (30_encoding.md R83). -/
theorem idNibble_contribution (b : Byte) (h1 : 1 ≤ n) (h10 : n ≤ 10) (hk : k < 10) :
    idNibble (contribution n b) k = if k = 10 - n then hexNib b else 0#4 := by
  apply BitVec.eq_of_getLsbD_eq
  intro j hj
  rw [idNibble, BitVec.getLsbD_extractLsb', contribution_getLsbD, nibShift]
  split
  · next hslot =>
    have hbit : 4 * k + j - (10 - n) * 4 = j := by omega
    have hin : 4 * k + j < 40 ∧ (10 - n) * 4 ≤ 4 * k + j := by omega
    simp [hj, hbit, hin]
  · next hslot =>
    obtain hbelow | habove : 4 * k + j < (10 - n) * 4 ∨ 4 ≤ 4 * k + j - (10 - n) * 4 := by omega
    · simp [hbelow]
    · simp [BitVec.getLsbD_of_ge _ _ habove]

/-- The slots a FEED in a frame has still to fill are zero before it. -/
theorem idNibble_of_unfilled (hslots : s.UnfilledSlotsZero) (h1 : 1 ≤ s.pos.toNat) (h11 : s.pos.toNat ≤ 11)
    (hk : k < 11 - s.pos.toNat) : idNibble s.idAcc k = 0#4 := by
  apply BitVec.eq_of_getLsbD_eq
  intro j hj
  rw [idNibble, BitVec.getLsbD_extractLsb', hslots h1 h11 _ (by omega)]
  simp

/-! ## Arm rows (log 4) -/

/-- An arm row that answered is the selected one, and its answer is FEED's. -/
theorem feedByRow_next (h : feedByRow p a b s = .next t) : s.pos = p ∧ selectArm s.pos b = a ∧ t = feedStep b s := by
  obtain ⟨hpos, harm, hrow⟩ | ⟨-, hrow⟩ := feedByRow_cases (s := s) p a b
  · exact ⟨hpos, harm, (Host.Outcome.next.inj (hrow ▸ h)).symm⟩
  · cases hrow ▸ h

/-- An instruction that is no command means the FEED step by one row, the row it is the instruction of. -/
theorem exec_row_of_not_command (h : isCommand i = false) :
    ∃ p a b, a.instr p b = i ∧ ∀ s, exec i s = feedByRow p a b s := by
  cases i with
  | nop | feed | take | takeFeed => cases h
  | feedRecover u b => exact ⟨u.pos, .recover, b, armInstr_recover u b ▸ by cases u <;> rfl, fun _ => rfl⟩
  | feedIdleSkip b => exact ⟨0#4, .idleSkip, b, rfl, fun _ => rfl⟩
  | _ => exact ⟨_, _, _, rfl, fun _ => rfl⟩

theorem exec_completes_of_command (h : isCommand i = true) (s : State) : ∃ t, exec i s = .next t := by
  obtain ⟨_, rfl⟩ | ⟨_, rfl⟩ | ⟨_, rfl⟩ | ⟨_, rfl⟩ := command_cases h <;> exact ⟨_, rfl⟩

/-- Everything an instruction that answers can be: one of the four commands, or the row its byte selects, as a FEED. -/
theorem exec_next_cases (h : exec i s = .next t) :
    (∃ d, i = .nop d ∧ t = nopStep s) ∨ (∃ b, i = .feed b ∧ t = feedStep b s) ∨ (∃ d, i = .take d ∧ t = takeStep s) ∨
      (∃ b, i = .takeFeed b ∧ t = feedStep b (takeStep s)) ∨ ∃ b, i = armInstr s.pos b ∧ t = feedStep b s := by
  cases hi : isCommand i with
  | true =>
    obtain ⟨d, rfl⟩ | ⟨b, rfl⟩ | ⟨d, rfl⟩ | ⟨b, rfl⟩ := command_cases hi
    · exact .inl ⟨d, rfl, (Host.Outcome.next.inj h).symm⟩
    · exact .inr (.inl ⟨b, rfl, (Host.Outcome.next.inj h).symm⟩)
    · exact .inr (.inr (.inl ⟨d, rfl, (Host.Outcome.next.inj h).symm⟩))
    · exact .inr (.inr (.inr (.inl ⟨b, rfl, (Host.Outcome.next.inj h).symm⟩)))
  | false =>
    obtain ⟨p, a, b, rfl, hexec⟩ := exec_row_of_not_command hi
    obtain ⟨rfl, rfl, ht⟩ := feedByRow_next (hexec s ▸ h)
    exact .inr (.inr (.inr (.inr ⟨b, rfl, ht⟩)))

/-! ## What a FEED leaves (10_state.md R21) -/

theorem feedStep_idAcc_frame (h : ¬ (s.pos = 0#4 ∧ b = 0x02#8 ∨ 1 ≤ s.pos.toNat ∧ s.pos.toNat ≤ 10)) :
    (feedStep b s).idAcc = s.idAcc := by
  obtain ⟨hpos, hb, -⟩ | ⟨-, -, hstep⟩ | ⟨p, h1, h10, hpos, -⟩ | ⟨-, hstep⟩ | ⟨-, hstep⟩ | ⟨-, hstep⟩ | ⟨-, hstep⟩ :=
    feedStep_cases s b
  · exact absurd (.inl ⟨hpos, hb⟩) h
  · simp [hstep]
  · rw [hpos, BitVec.toNat_ofNat] at h
    omega
  all_goals simp [hstep]

theorem feedStep_ckRx_frame (h : ¬ (s.pos = 0#4 ∧ b = 0x02#8 ∨ s.pos = 11#4 ∨ s.pos = 12#4)) :
    (feedStep b s).ckRx = s.ckRx := by
  obtain ⟨hpos, hb, -⟩ | ⟨-, -, hstep⟩ | ⟨p, -, -, -, hstep⟩ | ⟨hpos, -⟩ | ⟨hpos, -⟩ | ⟨-, hstep⟩ | ⟨-, hstep⟩ :=
    feedStep_cases s b
  · exact absurd (.inl ⟨hpos, hb⟩) h
  · simp [hstep]
  · simp [hstep]
  · exact absurd (.inr (.inl hpos)) h
  · exact absurd (.inr (.inr hpos)) h
  all_goals simp [hstep]

/-- Only an END leaves the flag at 1 (40_feed.md R101, R107). -/
theorem feedStep_flag_of_pos (b : Byte) (h : s.pos ≠ 13#4) : (feedStep b s).flag = false := by
  rw [Bool.eq_false_iff, ne_eq, feedStep_flag_iff]
  exact fun hend => h hend.1

end InstructionFamily

/-! ## The statements -/

/-- Settles O24: the result is the flag after the arm, which is 1 only by the gate. -/
theorem feedTrueExactlyOnAcceptance : Obligations.FeedTrueExactlyOnAcceptance :=
  fun s b => ⟨feedStep b s, (feedStep b s).flag, exec_feed s b, feedStep_responses s b, feedStep_flag_iff s b⟩

/-- Settles O32: a selected row is the FEED of its byte, and a row that answers is selected by its own byte. -/
theorem armRowRunsOnlyWhereSelected : Obligations.ArmRowRunsOnlyWhereSelected := by
  intro i s
  refine ⟨fun hi => exec_completes_of_command hi s,
    fun _ ⟨b, hb⟩ => ⟨feedStep b s, hb ▸ exec_armInstr_selected b s⟩, fun hi hnone => ?_⟩
  obtain ⟨p, a, b, rfl, hexec⟩ := exec_row_of_not_command hi
  obtain ⟨rfl, rfl, -⟩ | ⟨-, hrefused⟩ := feedByRow_cases (s := s) p a b
  · exact absurd ⟨b, rfl⟩ hnone
  · rw [hexec, hrefused]

/-- Settles O33: the OR with a contribution changes its own slot only, which was zero before. -/
theorem nibFillsItsSlotOnly : Obligations.NibFillsItsSlotOnly := by
  intro s t b hslots h1 h10 hexec
  have hid : t.idAcc = s.idAcc ||| contribution s.pos.toNat b := by
    rw [← Host.Outcome.next.inj hexec, feedStep_nib b h1 h10 (BitVec.ofNat_toNat 4 s.pos).symm]
  rw [hid]
  refine ⟨?_, fun k hk hother => ?_⟩
  · rw [idNibble_or, idNibble_of_unfilled hslots h1 (by omega) (by omega),
      idNibble_contribution b h1 h10 (by omega), if_pos rfl, BitVec.zero_or]
  · rw [idNibble_or, idNibble_contribution b h1 h10 hk, if_neg hother, BitVec.or_zero]

/-- Settles O43: without `in_valid` no accumulator is written; with it the command is a FEED, whose rows say what is. -/
theorem accumulatorWriters : Obligations.AccumulatorWriters := by
  intro t v d s
  refine ⟨_, exec_command s t v d, ?_⟩
  cases v with
  | false => cases t <;> simp
  | true =>
    obtain ⟨u, hpos, hid, hck, hu⟩ := commandEffect_valid_is_feed t d s
    rw [hu, ← hpos, ← hid, ← hck]
    refine ⟨fun h => feedStep_idAcc_frame fun hw => h ⟨rfl, hw⟩, fun h => feedStep_ckRx_frame fun hw => h ⟨rfl, hw⟩,
      fun _ h0 hd => ?_⟩
    rw [hd, feedStep_start h0]
    exact ⟨rfl, rfl⟩

/-- Settles O48: TAKE answers before the FEED of its edge; a FEED at position 0 leaves the flag 0. -/
theorem handoffWindow : Obligations.HandoffWindow := by
  intro s b d hflag hpos
  have hfeed (u : State) (hu : u.pos = 0#4) : (feedStep b u).flag = false :=
    feedStep_flag_of_pos b (by rw [hu]; decide)
  refine ⟨⟨_, exec_takeFeed s b, ?_⟩, _, rfl, ?_⟩
  · rw [feedStep_responses, hfeed (takeStep s) hpos, takeStep_responses, takeResponse_ready hflag, List.append_assoc]
    rfl
  · rw [takeStep_responses, feedStep_responses, takeResponse_none (hfeed s hpos), hfeed s hpos, List.append_assoc]
    rfl

end Sys2Proof.Machine

/-! Proofs of the statements on all twenty instructions and on lists of commands: the frame (10_state.md R21), the
anomalies (60_exceptions.md R151), what a run records (70_reset_and_hazards.md R189) and the single-slot handoff
(41_take.md R132). -/

namespace Sys2Proof.Machine

section RunFamily

variable {s t : State} {i : Instr} {is : List Instr}

/-! ## What every instruction does to the inputs and the responses -/

theorem exec_pending (h : exec i s = .next t) : t.pending = s.pending := by
  obtain ⟨_, -, rfl⟩ | ⟨_, -, rfl⟩ | ⟨_, -, rfl⟩ | ⟨_, -, rfl⟩ | ⟨_, -, rfl⟩ := exec_next_cases h <;> simp

theorem responseCount_armInstr (p : Pos) (b : Byte) : responseCount (armInstr p b) = 1 := by
  rw [armInstr]
  cases selectArm p b <;> rfl

/-- The responses grow by what the instruction gives, and a flag that was 0 is 1 only beside a FEED that returned
true. -/
theorem exec_responses (h : exec i s = .next t) :
    ∃ rs, t.responses = s.responses ++ rs ∧ rs.length = responseCount i ∧
      (t.flag = true → s.flag = true ∨ ∃ r ∈ rs, r.accepts = true) := by
  obtain ⟨_, rfl, rfl⟩ | ⟨b, rfl, rfl⟩ | ⟨_, rfl, rfl⟩ | ⟨b, rfl, rfl⟩ | ⟨b, rfl, rfl⟩ := exec_next_cases h
  · exact ⟨[], by simp, rfl, .inl⟩
  · exact ⟨_, feedStep_responses s b, rfl, fun hflag => .inr ⟨_, List.mem_singleton_self _, hflag⟩⟩
  · exact ⟨_, takeStep_responses s, rfl, nofun⟩
  · exact ⟨[.take s.takeResponse, .feed (feedStep b (takeStep s)).flag], by simp, rfl,
      fun hflag => .inr ⟨_, List.mem_cons_of_mem _ (List.mem_singleton_self _), hflag⟩⟩
  · exact ⟨_, feedStep_responses s b, (responseCount_armInstr s.pos b).symm,
      fun hflag => .inr ⟨_, List.mem_singleton_self _, hflag⟩⟩

/-! ## Runs -/

theorem runCommands_completes (h : is.all isCommand = true) (s : State) : ∃ t, runCommands is s = .next t := by
  induction is generalizing s with
  | nil => exact ⟨s, rfl⟩
  | cons i is ih =>
    rw [List.all_cons, Bool.and_eq_true] at h
    obtain ⟨hi, his⟩ := h
    obtain ⟨u, hu⟩ := exec_completes_of_command hi s
    rw [runCommands_cons hu]
    exact ih his u

/-- The instructions' responses in order, and with none of them accepting a flag that was 0 stays 0. -/
theorem runCommands_responses (h : runCommands is s = .next t) :
    ∃ rs, t.responses = s.responses ++ rs ∧ rs.length = (is.map responseCount).sum ∧
      (t.flag = true → s.flag = true ∨ ∃ r ∈ rs, r.accepts = true) := by
  induction is generalizing s with
  | nil =>
    cases h
    exact ⟨[], by simp, rfl, .inl⟩
  | cons i is ih =>
    rw [runCommands] at h
    split at h
    · next u hu =>
      obtain ⟨rs, hrs, hlen, hacc⟩ := exec_responses hu
      obtain ⟨rs', hrs', hlen', hacc'⟩ := ih h
      refine ⟨rs ++ rs', by rw [hrs', hrs, List.append_assoc], by simp [hlen, hlen'], fun hflag => ?_⟩
      simp only [List.mem_append]
      grind
    · cases h
    · cases h

end RunFamily

/-! ## The statements -/

/-- Settles O54: every command completes, with its responses. -/
theorem everyCommandListRunsToItsEnd : Obligations.EveryCommandListRunsToItsEnd := by
  intro is s hcommands
  obtain ⟨t, ht⟩ := runCommands_completes hcommands s
  obtain ⟨rs, hrs, hlen, -⟩ := runCommands_responses ht
  exact ⟨t, rs, ht, hrs, hlen⟩

/-- Settles O36: TAKE clears the flag, and without an accepting FEED nothing sets it. -/
theorem secondTakeReturnsNone : Obligations.SecondTakeReturnsNone := by
  intro is s s₁ s₂ d d' rs _ htake hrun hrs hnone
  obtain ⟨rs', hrs', -, hacc⟩ := runCommands_responses hrun
  obtain rfl : rs = rs' := List.append_cancel_left (hrs ▸ hrs')
  have hflag : s₂.flag = false := by
    rw [Bool.eq_false_iff]
    intro hready
    obtain hs₁ | ⟨r, hr, haccepts⟩ := hacc hready
    · rw [← Host.Outcome.next.inj htake] at hs₁
      cases hs₁
    · have hdropped := List.all_eq_true.mp hnone r hr
      simp [haccepts] at hdropped
  exact ⟨_, exec_take s₂ d', by rw [takeStep_responses, takeResponse_none hflag]⟩

/-- Settles O44: a command is its effect, and an arm row is the FEED at its own position, which writes what the row
says. -/
theorem instructionFrame : Obligations.InstructionFrame := by
  intro i s t hexec
  obtain ⟨rs, hrs, hlen, -⟩ := exec_responses hexec
  refine ⟨exec_pending hexec, ⟨rs, hrs, hlen⟩, ?_, ?_, ?_, ?_, ?_, ?_, ?_, ?_, ?_⟩
  · rintro b rfl
    rw [← Host.Outcome.next.inj hexec, nopStep_flag]
  · rintro b (rfl | rfl) <;> cases hexec <;> exact ⟨rfl, rfl, rfl⟩
  · rintro b (rfl | rfl) <;> cases hexec
    · exact ⟨feedStep_idAcc_frame, feedStep_ckRx_frame,
        fun hpos hb => by rw [feedStep_skip hpos hb, State.fedFalse_pos]⟩
    · exact ⟨feedStep_idAcc_frame (s := takeStep s), feedStep_ckRx_frame (s := takeStep s),
        fun hpos hb => by rw [feedStep_skip (s := takeStep s) hpos hb, State.fedFalse_pos, takeStep_pos]⟩
  · rintro rfl
    obtain ⟨hpos, -, rfl⟩ := feedByRow_next hexec
    rw [show Config.startMarker = 0x02#8 from rfl, feedStep_start hpos]
    exact ⟨rfl, rfl, rfl, rfl, rfl⟩
  · rintro b rfl
    obtain ⟨hpos, harm, rfl⟩ := feedByRow_next hexec
    have hb : b ≠ 0x02#8 := by
      rintro rfl
      rw [hpos] at harm
      cases harm
    rw [feedStep_skip hpos hb]
    exact ⟨rfl, rfl, rfl⟩
  · rintro b (rfl | rfl | rfl | rfl | rfl | rfl | rfl | rfl | rfl | rfl) <;>
    · obtain ⟨hpos, -, rfl⟩ := feedByRow_next hexec
      exact feedStep_ckRx_frame (by simp [hpos])
  · rintro b (rfl | rfl) <;>
    · obtain ⟨hpos, -, rfl⟩ := feedByRow_next hexec
      exact feedStep_idAcc_frame (by simp [hpos])
  · rintro b rfl
    obtain ⟨hpos, -, rfl⟩ := feedByRow_next hexec
    exact ⟨feedStep_idAcc_frame (by simp [hpos]), feedStep_ckRx_frame (by simp [hpos])⟩
  · rintro p b rfl
    obtain ⟨hpos, -, rfl⟩ := feedByRow_next hexec
    rw [feedStep_recover b (hpos ▸ unusedPos_pos_eq p)]
    exact ⟨rfl, rfl⟩

/-- Settles O47: an anomaly is no more than the row its FEED takes. -/
theorem anomaliesResynchronise : Obligations.AnomaliesResynchronise := by
  intro a s b hocc
  refine ⟨feedStep b s, exec_feed s b, ?_⟩
  cases a with
  | idleNoise =>
    obtain ⟨hpos, hb⟩ : s.pos = 0#4 ∧ b ≠ 0x02#8 := by simpa [Anomaly.occurs, Config.startMarker] using hocc
    simp [feedStep_skip hpos hb]
  | endMarker =>
    obtain ⟨hpos, hb⟩ : s.pos = 13#4 ∧ b ≠ 0x03#8 := by simpa [Anomaly.occurs, Config.endMarker] using hocc
    have hgate : frameAccepted b s.ckRx s.idAcc = false := by
      rw [Bool.eq_false_iff, ne_eq, frameAccepted_iff]
      exact fun hacc => hb hacc.1
    simp [feedStep_end b hpos, hgate]
  | checksum =>
    obtain ⟨⟨hpos, -⟩, hck⟩ : (s.pos = 13#4 ∧ b = 0x03#8) ∧ s.ckRx ≠ xor5 s.idAcc := by
      simpa [Anomaly.occurs, Config.endMarker] using hocc
    simp [feedStep_drop b hpos hck]
  | nonHex =>
    obtain ⟨⟨h1, h12⟩, -⟩ : (1 ≤ s.pos.toNat ∧ s.pos.toNat ≤ 12) ∧ isHexChar b = false := by
      simpa [Anomaly.occurs, BitVec.le_def] using hocc
    obtain ⟨hflag, -⟩ := feedStep_not_end (s := s) b (by omega)
    refine ⟨feedStep_pos_advances b h1 h12, hflag, fun h10 => ?_, fun h11 => ?_, fun h12 => ?_⟩
    · rw [feedStep_nib b h1 h10 (BitVec.ofNat_toNat 4 s.pos).symm]
    · rw [feedStep_ckHi b h11]
    · rw [feedStep_ckLo b h12]
  | lost =>
    intro hpos
    have hflag := feedStep_flag_of_pos b hpos
    exact ⟨hflag, takeResponse_none hflag⟩

end Sys2Proof.Machine

/-! Proofs of the statements on frames: what the hex characters spell (30_encoding.md R81, R82), and how fourteen bytes
from position 0 are consumed (40_feed.md R110, R112 to R114). -/

namespace Sys2Proof.Machine

section FrameFamily

variable {s : State} {b : Byte} {bs : List Byte} {B : Nat → Byte} {n : Nat}

/-! ## Hex characters (R81, R82) -/

theorem hexNib_of_digit {b : Byte} (h1 : 0x30#8 ≤ b) (h2 : b ≤ 0x39#8) : hexNib b = b.extractLsb' 0 4 := by
  have hdirect : ¬ b - 0x30#8 > 9#8 := by bv_omega
  have hnib : hexNib b = (b - 0x30#8).extractLsb' 0 4 := congrArg (BitVec.extractLsb' 0 4) (if_neg hdirect)
  rw [hnib, ← BitVec.toNat_inj]
  simp only [BitVec.extractLsb'_toNat, Nat.shiftRight_zero]
  bv_omega

/-- A byte that is no digit is read as a letter is, 9 more than its low nibble. -/
theorem hexNib_of_not_digit {b : Byte} (h : ¬ (0x30#8 ≤ b ∧ b ≤ 0x39#8)) :
    (hexNib b).toNat = ((b.extractLsb' 0 4).toNat + 9) % 16 := by
  have hletter : b - 0x30#8 > 9#8 := by bv_omega
  have hnib : hexNib b = (b - 0x30#8 - 7#8).extractLsb' 0 4 := congrArg (BitVec.extractLsb' 0 4) (if_pos hletter)
  simp only [hnib, BitVec.extractLsb'_toNat, Nat.shiftRight_zero]
  bv_omega

theorem hexNib_hexChar (upper : Bool) (n : Nibble) : hexNib (hexChar upper n) = n := by
  revert upper n
  decide

theorem isHexChar_hexChar (upper : Bool) (n : Nibble) : isHexChar (hexChar upper n) = true := by
  revert upper n
  decide

/-! ## Runs of FEEDs -/

/-- The state after a FEED of each byte in order. -/
def feedAll (bs : List Byte) (s : State) : State :=
  bs.foldl (fun u b => feedStep b u) s

@[simp] theorem feedAll_nil (s : State) : feedAll [] s = s := rfl

@[simp] theorem feedAll_cons (b : Byte) (bs : List Byte) (s : State) :
    feedAll (b :: bs) s = feedAll bs (feedStep b s) := rfl

theorem feedAll_append (bs cs : List Byte) (s : State) : feedAll (bs ++ cs) s = feedAll cs (feedAll bs s) :=
  List.foldl_append

theorem runCommands_feeds (bs : List Byte) (s : State) : runCommands (feeds bs) s = .next (feedAll bs s) := by
  induction bs generalizing s with
  | nil => rfl
  | cons b bs ih => exact ih (feedStep b s)

/-- The bytes of `B` in order, one more of them. -/
theorem feedAll_range_succ (B : Nat → Byte) (n : Nat) (s : State) :
    feedAll ((List.range (n + 1)).map B) s = feedStep (B n) (feedAll ((List.range n).map B) s) := by
  rw [List.range_succ, List.map_append, feedAll_append]
  rfl

/-- Bytes too few to reach and run an END all return false. -/
theorem feedAll_responses_of_no_end (h : s.pos.toNat + bs.length ≤ 13) :
    (feedAll bs s).responses = s.responses ++ List.replicate bs.length (.feed false) := by
  induction bs generalizing s with
  | nil => simp
  | cons b bs ih =>
    rw [List.length_cons] at h
    obtain ⟨hflag, hpos⟩ := feedStep_not_end (s := s) b (by omega)
    rw [feedAll_cons, ih (by omega), feedStep_responses, hflag, List.append_assoc]
    rfl

/-- Noise at position 0 leaves the position (R103). -/
theorem feedAll_noise (hpos : s.pos = 0#4) (hnoise : ∀ b ∈ bs, b ≠ 0x02#8) :
    (feedAll bs s).pos = 0#4 ∧ (feedAll bs s).responses = s.responses ++ List.replicate bs.length (.feed false) := by
  induction bs generalizing s with
  | nil => simp [hpos]
  | cons b bs ih =>
    obtain ⟨hb, hbs⟩ := List.forall_mem_cons.mp hnoise
    obtain ⟨hend, hresponses⟩ := ih (s := s.fedFalse) hpos hbs
    rw [feedAll_cons, feedStep_skip hpos hb]
    exact ⟨hend, by rw [hresponses, State.fedFalse_responses, List.append_assoc]; rfl⟩

/-! ## A frame from its start marker on -/

/-- `s` with `n` more bytes fed, none of them accepted, and the framing registers at these values. -/
def State.inFrame (s : State) (n : Nat) (p : Pos) (v : Ident) (c : Checksum) : State :=
  { s with pos := p, idAcc := v, ckRx := c, flag := false, frameOk := false,
           responses := s.responses ++ List.replicate n (.feed false) }

theorem fedFalse_inFrame (s : State) (n : Nat) (p : Pos) (v : Ident) (c : Checksum) :
    (s.inFrame n p v c).fedFalse = s.inFrame (n + 1) p v c := by
  simp [State.inFrame, State.fedFalse, List.replicate_succ']

theorem feedStep_nib_inFrame (s : State) (b : Byte) (v : Ident) (c : Checksum) (h1 : 1 ≤ n) (h10 : n ≤ 10) :
    feedStep b (s.inFrame n (BitVec.ofNat 4 n) v c) =
      s.inFrame (n + 1) (BitVec.ofNat 4 (n + 1)) (v ||| contribution n b) c := by
  rw [feedStep_nib b h1 h10 rfl, fedFalse_inFrame]
  rfl

theorem feedStep_ckHi_inFrame (s : State) (b : Byte) (v : Ident) (c : Checksum) :
    feedStep b (s.inFrame 11 11#4 v c) = s.inFrame 12 12#4 v (checksumHigh b) := by
  rw [feedStep_ckHi b rfl, fedFalse_inFrame]
  rfl

theorem feedStep_ckLo_inFrame (s : State) (b : Byte) (v : Ident) (c : Checksum) :
    feedStep b (s.inFrame 12 12#4 v c) = s.inFrame 13 13#4 v (c ||| checksumLow b) := by
  rw [feedStep_ckLo b rfl, fedFalse_inFrame]
  rfl

/-- The identifier's bytes ORed in, up to the one at offset `n` (R104). -/
def idUpTo (B : Nat → Byte) : Nat → Ident
  | 0 => 0#40
  | n + 1 => idUpTo B n ||| contribution (n + 1) (B (n + 1))

theorem idUpTo_ten (B : Nat → Byte) : idUpTo B 10 = idOfBytes B := by
  simp [idUpTo, idOfBytes_eq_or]

/-- The start marker and the first `n` identifier bytes. -/
theorem feedAll_identifier (hpos : s.pos = 0#4) (hstart : B 0 = 0x02#8) (hn : n ≤ 10) :
    feedAll ((List.range (n + 1)).map B) s = s.inFrame (n + 1) (BitVec.ofNat 4 (n + 1)) (idUpTo B n) 0x00#8 := by
  induction n with
  | zero =>
    rw [feedAll_range_succ, hstart]
    exact feedStep_start hpos
  | succ n ih =>
    rw [feedAll_range_succ, ih (by omega), feedStep_nib_inFrame _ _ _ _ (by omega) hn]
    rfl

/-- The state a frame's last byte is fed in: the whole identifier and the received checksum (R110). -/
theorem feedAll_before_end (hpos : s.pos = 0#4) (hstart : B 0 = 0x02#8) :
    feedAll ((List.range 13).map B) s = s.inFrame 13 13#4 (idOfBytes B) (checksumOfBytes B) := by
  have hid : feedAll ((List.range 11).map B) s = s.inFrame 11 11#4 (idUpTo B 10) 0x00#8 :=
    feedAll_identifier hpos hstart (Nat.le_refl 10)
  rw [feedAll_range_succ, feedAll_range_succ, hid, feedStep_ckHi_inFrame, feedStep_ckLo_inFrame, checksum_join,
    idUpTo_ten]
  rfl

/-- Fourteen bytes from position 0 that begin with the start marker are one frame, which the gate judges. -/
theorem feedAll_fourteen (hpos : s.pos = 0#4) (hstart : B 0 = 0x02#8) {r : Bool}
    (hr : frameAccepted (B 13) (checksumOfBytes B) (idOfBytes B) = r) :
    feedAll ((List.range 14).map B) s =
      { s with pos := 0#4, idAcc := idOfBytes B, ckRx := checksumOfBytes B, flag := r, frameOk := r,
               responses := s.responses ++ (List.replicate 13 (.feed false) ++ [.feed r]) } := by
  rw [feedAll_range_succ, feedAll_before_end hpos hstart, feedStep_end _ rfl, ← List.append_assoc, ← hr]
  rfl

/-! ## The frame of an identifier (R72) -/

/-- The byte of `Frame(v)` at an offset. -/
def frameByte (upper : Nat → Bool) (v : Ident) (i : Nat) : Byte :=
  (frame upper v).getD i 0#8

theorem frame_eq_map (upper : Nat → Bool) (v : Ident) : frame upper v = (List.range 14).map (frameByte upper v) := rfl

/-- The characters at offsets 1 to 10 spell the identifier's nibbles from the highest down. -/
theorem hexNib_frameByte (upper : Nat → Bool) (v : Ident) (h1 : 1 ≤ n) (h10 : n ≤ 10) :
    hexNib (frameByte upper v n) = idNibble v (10 - n) := by
  have hbyte : frameByte upper v n = hexChar (upper (n - 1)) (idNibble v (10 - n)) := by
    obtain rfl | rfl | rfl | rfl | rfl | rfl | rfl | rfl | rfl | rfl := nat_one_to_ten h1 h10 <;> rfl
  rw [hbyte, hexNib_hexChar]

/-- An identifier is its ten nibbles side by side (10_state.md R24). -/
theorem idNibble_join (v : Ident) :
    idNibble v 9 ++ (idNibble v 8 ++ (idNibble v 7 ++ (idNibble v 6 ++ (idNibble v 5 ++ (idNibble v 4 ++ (idNibble v 3 ++
      (idNibble v 2 ++ (idNibble v 1 ++ idNibble v 0)))))))) = v := by
  apply BitVec.eq_of_getLsbD_eq
  intro i hi
  simp only [BitVec.getLsbD_append, idNibble, BitVec.getLsbD_extractLsb']
  grind

theorem idOfBytes_frameByte (upper : Nat → Bool) (v : Ident) : idOfBytes (frameByte upper v) = v := by
  simp (disch := decide) only [idOfBytes, hexNib_frameByte]
  exact idNibble_join v

theorem checksumOfBytes_frameByte (upper : Nat → Bool) (v : Ident) : checksumOfBytes (frameByte upper v) = xor5 v := by
  have hhigh : hexNib (frameByte upper v 11) = (xor5 v).extractLsb' 4 4 := hexNib_hexChar (upper 10) _
  have hlow : hexNib (frameByte upper v 12) = (xor5 v).extractLsb' 0 4 := hexNib_hexChar (upper 11) _
  rw [checksumOfBytes, hhigh, hlow]
  exact (BitVec.extractLsb'_append_extractLsb'_eq_extractLsb' rfl).trans BitVec.extractLsb'_eq_self

theorem feedAll_frame (upper : Nat → Bool) (v : Ident) (hpos : s.pos = 0#4) :
    feedAll (frame upper v) s =
      { s with pos := 0#4, idAcc := v, ckRx := xor5 v, flag := true, frameOk := true,
               responses := s.responses ++ (List.replicate 13 (.feed false) ++ [.feed true]) } := by
  have hgate : frameAccepted (frameByte upper v 13) (xor5 v) v = true :=
    (frameAccepted_iff ..).mpr ⟨rfl, rfl⟩
  rw [frame_eq_map, feedAll_fourteen (r := true) hpos rfl] <;>
    simp only [idOfBytes_frameByte, checksumOfBytes_frameByte, hgate]

end FrameFamily

/-! ## The statements -/

/-- Settles O49: begun by the start marker the bytes are one frame; otherwise the first is skipped at position 0, and
thirteen bytes from there are too few to run an END. -/
theorem anyFourteenBytesDecoded : Obligations.AnyFourteenBytesDecoded := by
  intro s B hpos
  by_cases hstart : B 0 = 0x02#8
  · refine ⟨_, frameAccepted (B 13) (checksumOfBytes B) (idOfBytes B),
      (runCommands_feeds _ s).trans (congrArg _ (feedAll_fourteen hpos hstart rfl)), rfl, ?_,
      fun _ => ⟨rfl, rfl, rfl, rfl⟩⟩
    rw [frameAccepted_iff]
    exact ⟨fun hacc => ⟨hstart, hacc⟩, fun hacc => hacc.2⟩
  · refine ⟨_, false, runCommands_feeds _ s, ?_, ⟨nofun, fun hacc => absurd hacc.1 hstart⟩, fun h => absurd h hstart⟩
    have hbytes : (List.range 14).map B = B 0 :: (List.range' 1 13).map B := rfl
    have hrest : ((List.range' 1 13).map B).length = 13 := by simp
    rw [hbytes, feedAll_cons, feedStep_skip hpos hstart, feedAll_responses_of_no_end (by simp [hpos]), hrest,
      State.fedFalse_responses, List.append_assoc]
    rfl

/-- Settles O50: the characters of `Frame(v)` spell v and its checksum, which the gate accepts. -/
theorem validFrameDecodes : Obligations.ValidFrameDecodes := by
  intro s upper v hpos
  rw [runCommands_feeds, feedAll_frame upper v hpos]

/-- Settles O51: the noise leaves position 0, from where the frame decodes. -/
theorem noiseBeforeFrameIsHarmless : Obligations.NoiseBeforeFrameIsHarmless := by
  intro s N upper v hpos hnoise
  obtain ⟨hidle, hresponses⟩ := feedAll_noise hpos hnoise
  refine ⟨_, runCommands_feeds _ s, ?_⟩
  rw [feedAll_append, feedAll_frame upper v hidle, hresponses]
  exact ⟨rfl, rfl, rfl, by simp [List.replicate_add]⟩

/-- Settles O52: an END leaves position 0 whatever the gate answers. -/
theorem frameAfterAnyEndDecodes : Obligations.FrameAfterAnyEndDecodes := by
  intro s b upper v hpos
  refine ⟨feedStep b s, _, exec_feed s b, runCommands_feeds _ _, ?_⟩
  rw [feedAll_frame upper v (feedStep_pos_of_end b hpos)]
  exact ⟨rfl, rfl, rfl, rfl⟩

/-- Settles O53: the first frame ends in a state at position 0, and of what it leaves the second reads nothing. -/
theorem backToBackFrames : Obligations.BackToBackFrames := by
  intro s upper upper' v v' hpos
  refine ⟨_, _, runCommands_feeds _ s, ?_, runCommands_feeds _ s, ?_⟩
  · rw [feedAll_frame upper v hpos]
  · rw [feedAll_append, feedAll_frame upper v hpos, feedAll_frame upper' v' rfl]
    exact ⟨rfl, rfl, by simp⟩

end Sys2Proof.Machine

/-! Proofs of the statements on fixed words, assembler lines, reset and several blocks (30_encoding.md R73, R77, R86, R87;
70_reset_and_hazards.md R180; 60_exceptions.md R170). -/

namespace Sys2Proof.Machine

section WordsAndReset

variable {s : State}

/-- A command word as its selector bits ORed with D. -/
theorem commandWord_eq_or (t v : Bool) (d : Byte) :
    commandWord t v d = (BitVec.ofBool t ++ BitVec.ofBool v).setWidth 10 <<< 8 ||| d.setWidth 10 := by
  rw [commandWord_eq_append, ← BitVec.setWidth_append_eq_shiftLeft_setWidth_or, BitVec.setWidth_eq]

/-- With nothing driven the coming edge is the idle one, and taking it changes nothing (log 2). -/
theorem step_undriven (h : s.pending = []) : step s = clockEdge .idle s := by
  have hedge : s.nextEdge = .idle := by rw [State.nextEdge, h, List.headD_nil]
  have hstate : s.takeEdge = s := by
    rw [State.takeEdge, h, List.tail_nil, ← h]
    rfl
  rw [step, hedge, hstate]

end WordsAndReset

/-! ## The statements -/

/-- Settles O2: the words are numbers, which the decoder reads. -/
theorem wordsWrittenOutDecode : Obligations.WordsWrittenOutDecode :=
  ⟨rfl, rfl, rfl, rfl, rfl, rfl, rfl, rfl, rfl, rfl, rfl⟩

/-- Settles O7: each line's expansion is the list the statement writes out, and a one-command line's word is its selector
bits with D. -/
theorem assemblerLinesExpand : Obligations.AssemblerLinesExpand := by
  refine ⟨rfl, rfl, fun b => ⟨?_, ?_⟩, fun upper v => ?_, fun _ _ => rfl, fun _ _ => rfl, fun _ => rfl, fun _ => rfl, ?_⟩
  · exact congrArg (fun w => [InstrWord.cmd w]) (commandWord_eq_or false true b)
  · exact congrArg (fun w => [InstrWord.cmd w]) (commandWord_eq_or true true b)
  · cases upper <;> rfl
  · decide

/-- Settles O8: the subtraction in `HexNib` wraps for no digit, and takes 7 more from every other byte. -/
theorem hexNibClosedForm : Obligations.HexNibClosedForm :=
  ⟨fun _ h1 h2 => hexNib_of_digit h1 h2, fun _ h => hexNib_of_not_digit h,
    fun upper n => ⟨hexNib_hexChar upper n, isHexChar_hexChar upper n⟩⟩

/-- Settles O15: the idle edge presents the NOP word. -/
theorem undrivenEdgeIsNop : Obligations.UndrivenEdgeIsNop := by
  intro s hpending
  rw [step_undriven hpending, clockEdge_command rfl]
  exact congrArg (fun i => exec i s) (decodeCommand_fields false false 0x00#8)

/-- Settles O16: a reset edge runs the reset, which reads neither the command nor a register. -/
theorem resetOverridesCommand : Obligations.ResetOverridesCommand := by
  intro s e rest hpending hrst
  rw [step_of_pending hpending, clockEdge_reset hrst]
  rfl

/-- Settles O17: the registers by definition, and of the outputs `calc_ck` is the XOR of five zero bytes. -/
theorem resetRegisterValues : Obligations.ResetRegisterValues :=
  ⟨rfl, rfl, rfl, rfl, rfl, by decide⟩

/-- Settles O18: the block is idle with no identifier ready, and no response is recorded. -/
theorem invariantsHoldAtReset : Obligations.InvariantsHoldAtReset :=
  ⟨inv_of_idle rfl nofun, Nat.le_refl 0, nofun⟩

/-- Settles O55: one element of the list is modified, by its own step. -/
theorem instancesShareNothing : Obligations.InstancesShareNothing := by
  refine fun blocks k => ⟨fun j hj => List.getElem?_modify_ne _ _ hj.symm, fun s t hs ht => ?_⟩
  rw [stepInstance, List.getElem?_modify_eq, hs]
  simp [ht]

end Sys2Proof.Machine
